-- ==== Sys2Proof/Word.lean ====
section
/-! DEFINITION. The words of the core: bytes of key and block strings, 32-bit registers, and the two cipher widths. -/

namespace Sys2Proof

/-- One byte of a key, input or output string (R9). -/
abbrev Byte := BitVec 8

/-- One host-visible register, one bus datum, one command word: 32 bits (R21, R50, R80). -/
abbrev Word := BitVec 32

/-- The word width of a cipher or rotator operation (R2, R82): 32 bits (SIMON-64) or 64 bits (SIMON-128). -/
inductive Width where
  | w32
  | w64
deriving DecidableEq, Repr

/-- The number of bits of a word of that width (R82). -/
abbrev Width.bits : Width → Nat
  | .w32 => 32
  | .w64 => 64

/-- A block: the pair (x, y) of its upper and lower word (R59). -/
abbrev Block (n : Nat) := BitVec n × BitVec n

end Sys2Proof
end

