-- ==== Sys2Proof/Syntax.lean ====
section
/-! DEFINITION. The ten commands of the core (R85, spec/opcode_table.json), one constructor a row. -/

namespace Sys2Proof

/-- A command. The key length `len` (bytes) and the constant amount `k` (positions) are counts; the encoding gives
each six bits (R83), which `WellFormed` checks. -/
inductive Instr where
  /-- NOP, R193. -/
  | nop
  /-- KEYSETUP with the block size in `w` and the user-key length in `len`, R140. -/
  | keysetup (w : Width) (len : Nat)
  /-- ENCRYPT, R164. -/
  | encrypt
  /-- DECRYPT, R165. -/
  | decrypt
  /-- ROLI: rotate left by the constant `k`, R106. -/
  | roli (w : Width) (k : Nat)
  /-- RORI: rotate right by the constant `k`, R107. -/
  | rori (w : Width) (k : Nat)
  /-- ROLV: rotate left by ROTAMT, R108. -/
  | rolv (w : Width)
  /-- RORV: rotate right by ROTAMT, R109. -/
  | rorv (w : Width)
  /-- FMIX: the round helper f once, R110. -/
  | fmix (w : Width)
  /-- ZEROIZE, R194. -/
  | zeroize
deriving DecidableEq, Repr

end Sys2Proof
end

