-- ==== Sys2Proof/WellFormed.lean ====
section
/-! DEFINITION. Which terms of `Instr` an encoding exists for. -/

namespace Sys2Proof

/-- The largest value of IMM6 (R83); an assembler refuses a larger one (R89). -/
def maxImm : Nat := 63

/-- A command has an encoding when its immediate fits IMM6. A key length that selects no variant is well-formed: it is a
legal encoding that fails at completion (R86). -/
def Instr.wellFormed : Instr → Bool
  | .nop => true
  | .keysetup _ len => len ≤ maxImm
  | .encrypt => true
  | .decrypt => true
  | .roli _ k => k ≤ maxImm
  | .rori _ k => k ≤ maxImm
  | .rolv _ => true
  | .rorv _ => true
  | .fmix _ => true
  | .zeroize => true

end Sys2Proof
end

