-- ==== Sys2Proof/Decode.lean ====
section
/-! DEFINITION. The command word: its fields (R81), the total decoder (R87) and the encoder (R89). A command word is taken
whole from the bus (R66), so the decoder reads one 32-bit value and no bytes. -/

namespace Sys2Proof

/-- Why a word is no command (R88). The core records only ILLEGAL; the reasons are the model's names (log 18). -/
inductive Illegal where
  /-- A bit of RSV0, RSV1 or RSV2 is set (R84). -/
  | reservedBits
  /-- OP is 0xA to 0xF (R85). -/
  | reservedOpcode
  /-- W or IMM6 is nonzero where the command does not use it (R84). -/
  | unusedFieldSet
deriving DecidableEq, Repr

/-- OP, bits 3:0 (R81). -/
def opField (v : Word) : BitVec 4 := v.extractLsb' 0 4
/-- RSV0, bits 7:4 (R81). -/
def rsv0Field (v : Word) : BitVec 4 := v.extractLsb' 4 4
/-- W, bit 8 (R81). -/
def wField (v : Word) : BitVec 1 := v.extractLsb' 8 1
/-- RSV1, bits 15:9 (R81). -/
def rsv1Field (v : Word) : BitVec 7 := v.extractLsb' 9 7
/-- IMM6, bits 21:16 (R81). -/
def imm6Field (v : Word) : BitVec 6 := v.extractLsb' 16 6
/-- RSV2, bits 31:22 (R81). -/
def rsv2Field (v : Word) : BitVec 10 := v.extractLsb' 22 10

/-- W = 0 selects w = 32, W = 1 selects w = 64 (R82). -/
def widthOfBit (b : BitVec 1) : Width := if b = 0 then .w32 else .w64

/-- A command that uses neither W nor IMM6 (R87). -/
def decodeBare (v : Word) (i : Instr) : Except Illegal Instr :=
  if wField v = 0 ∧ imm6Field v = 0 then .ok i else .error .unusedFieldSet

/-- A command that uses W and not IMM6 (R87). -/
def decodeWidth (v : Word) (i : Width → Instr) : Except Illegal Instr :=
  if imm6Field v = 0 then .ok (i (widthOfBit (wField v))) else .error .unusedFieldSet

/-- A command that uses W and IMM6 (R87); IMM6 is zero-extended, neither scaled nor shifted (R83). -/
def decodeImm (v : Word) (i : Width → Nat → Instr) : Except Illegal Instr :=
  .ok (i (widthOfBit (wField v)) (imm6Field v).toNat)

/-- The decoder, total on every 32-bit word (R87). -/
def decode (v : Word) : Except Illegal Instr :=
  if rsv0Field v ≠ 0 ∨ rsv1Field v ≠ 0 ∨ rsv2Field v ≠ 0 then .error .reservedBits
  else
    match (opField v).toNat with
    | 0x0 => decodeBare v .nop
    | 0x1 => decodeImm v .keysetup
    | 0x2 => decodeBare v .encrypt
    | 0x3 => decodeBare v .decrypt
    | 0x4 => decodeImm v .roli
    | 0x5 => decodeImm v .rori
    | 0x6 => decodeWidth v .rolv
    | 0x7 => decodeWidth v .rorv
    | 0x8 => decodeWidth v .fmix
    | 0x9 => decodeBare v .zeroize
    | _ => .error .reservedOpcode

/-- The value of W that selects a width (R82). -/
def Width.bit : Width → Word
  | .w32 => 0
  | .w64 => 1

/-- `(IMM6 << 16) | (W << 8) | OP` (R89). -/
def packFields (op : Word) (w : Word) (imm : Nat) : Word :=
  (BitVec.ofNat 32 imm <<< 16) ||| (w <<< 8) ||| op

/-- The word of a well-formed command (R89); an unused field is 0 (R84). -/
def encode : Instr → Word
  | .nop => packFields 0x0 0 0
  | .keysetup w len => packFields 0x1 w.bit len
  | .encrypt => packFields 0x2 0 0
  | .decrypt => packFields 0x3 0 0
  | .roli w k => packFields 0x4 w.bit k
  | .rori w k => packFields 0x5 w.bit k
  | .rolv w => packFields 0x6 w.bit 0
  | .rorv w => packFields 0x7 w.bit 0
  | .fmix w => packFields 0x8 w.bit 0
  | .zeroize => packFields 0x9 0 0

/-- The word whose low `nbits` bits are those of `w`, every higher bit 0. Every row of the table has 32 bits (R80). -/
def tableWord (nbits w : Nat) : Word := BitVec.ofNat 32 (w % 2 ^ nbits)

/-- What the decoder reads from a word numbered as spec/opcode_table.json numbers it (bit 0 least significant), `none`
where it refuses. -/
def decodeTableWord (nbits w : Nat) : Option Instr :=
  match decode (tableWord nbits w) with
  | .ok i => some i
  | .error _ => none

end Sys2Proof
end

