-- ==== Sys2Proof/Config.lean ====
section
/-! DEFINITION. What an implementation of the core fixes (R2, R6) and what the platform chooses (R51).
The spec leaves no value open (R38), so there is no free value here. LAT and RESET_STYLE (R6) are time and are left out (log 7). -/

namespace Sys2Proof

/-- The five cipher variants, and no others (R2). -/
inductive Variant where
  | simon64_96
  | simon64_128
  | simon128_128
  | simon128_192
  | simon128_256
deriving DecidableEq, Repr

namespace Config

/-- The register window is 256 bytes (R6, R51). -/
def windowBytes : Nat := 256

/-- What the platform chooses: `SIMON_BASE`, an open parameter (R51; log 6). -/
structure Platform where
  base : Nat
deriving DecidableEq, Repr

/-- The base is 256-byte aligned (R51). -/
abbrev Platform.Aligned (p : Platform) : Prop := p.base % windowBytes = 0

end Config

end Sys2Proof
end

