-- ==== Sys2Proof/Machine/State.lean ====
section
/-! DEFINITION. The state of the core (R20), what stands on its ports (R50), its reset value (R38), and the reasons a step
can stop. -/

namespace Sys2Proof.Machine

/-- One bus access as the host presents it on the ports (R50). -/
structure Access where
  /-- bus_we: true for a write. -/
  we    : Bool
  /-- bus_addr: the byte offset within the window. -/
  off   : BitVec 8
  /-- bus_size: the access size in bytes. -/
  size  : BitVec 4
  /-- bus_wdata: the data of a write; a read does not look at it. -/
  wdata : Word
deriving DecidableEq, Repr

/-- The core's answer to an access (R50): bus_ready is that there is one. -/
structure Response where
  /-- bus_err, R53. -/
  err   : Bool
  /-- bus_rdata of a read; the spec gives no bus_rdata for a write, and a write has `none` here (log 4). -/
  rdata : Option Word
deriving DecidableEq, Repr

/-- What the outside does, and who moves (R11). A list of events is one order of host accesses, completions and resets;
the spec allows every such order (R63, R249; log 1). -/
inductive Event where
  /-- The host performs one bus access. -/
  | bus (a : Access)
  /-- The core may take its completion step (R191). -/
  | core
  /-- rst is asserted, one atomic event (R240), with the access a master presents meanwhile, if any. -/
  | rst (presented : Option Access)
deriving DecidableEq, Repr

/-- The machine: the record of R20 and, last, the two fields of the model itself (log 1, log 3). -/
structure State where
  /-- CFG.IE, R23. -/
  cfgIe   : Bool
  /-- STATUS.DONE, R24. -/
  done    : Bool
  /-- STATUS.OVR, R24. -/
  ovr     : Bool
  /-- STATUS.ERR, R24, R211. -/
  err     : BitVec 4
  /-- The loaded variant, R32. -/
  variant : Option Variant
  /-- ROTAMT.AMT, R26. -/
  rotamt  : BitVec 6
  /-- KEY0 to KEY7, R28. -/
  key     : Vector Word 8
  /-- DIN0 to DIN3, R29. -/
  din     : Vector Word 4
  /-- DOUT0 to DOUT3, R30. -/
  dout    : Vector Word 4
  /-- The round-key RAM, R31. -/
  rk      : Vector (BitVec 64) 72
  /-- The command slot, R33. -/
  pending : Option Word
  /-- The response to the last access on the bus port, R50; the model's own field. -/
  rsp     : Option Response
  /-- What the outside still presents, the next event first; the model's own field. -/
  events  : List Event
deriving DecidableEq, Repr

/-- Why a step stops. -/
inductive Fault where
  /-- Raised by `step` on a reset event with an access presented: while rst is asserted the model has no step for the
  host, and what a master sees then is the platform's concern (R240; I16 of 93_implementation_defined.md: stuck).
  Safe: nothing is claimed of the state after it (log 5). -/
  | accessDuringReset
deriving DecidableEq, Repr

/-- Why a step has no meaning. -/
inductive Refusal where
  /-- Raised by `exec` for a command without a meaning. No arm does: every command has one. Safe. -/
  | notModelled (mnemonic : String)
deriving DecidableEq, Repr

/-- The state right after reset (R38); on the ports nothing has happened and nothing is presented (log 1, log 3). -/
def State.reset : State where
  cfgIe   := false
  done    := false
  ovr     := false
  err     := 0
  variant := none
  rotamt  := 0
  key     := Vector.replicate 8 0
  din     := Vector.replicate 4 0
  dout    := Vector.replicate 4 0
  rk      := Vector.replicate 72 0
  pending := none
  rsp     := none
  events  := []

end Sys2Proof.Machine
end

