-- ==== Sys2Proof/Machine/Params.lean ====
section
/-! DEFINITION. The tables of the variants: sizes (R2), selection (R130), constants (R131), index ranges (R136) and tail
bit terms (R137); and the constant registers (R22, R36). -/

namespace Sys2Proof

namespace Variant

/-- The word width (R2). -/
abbrev width : Variant → Width
  | simon64_96 | simon64_128 => .w32
  | simon128_128 | simon128_192 | simon128_256 => .w64

/-- m, the number of user-key words (R2). -/
def keyWords : Variant → Nat
  | simon128_128 => 2
  | simon64_96 | simon128_192 => 3
  | simon64_128 | simon128_256 => 4

/-- R, the number of rounds (R2). -/
def rounds : Variant → Nat
  | simon64_96 => 42
  | simon64_128 => 44
  | simon128_128 => 68
  | simon128_192 => 69
  | simon128_256 => 72

/-- The user-key length in bytes, m · word_bytes (R2, R58). -/
def keyBytes (V : Variant) : Nat := V.keyWords * (V.width.bits / 8)

/-- The constant sequence z (R131). -/
def z : Variant → BitVec 64
  | simon64_96 | simon128_128 => 0x7369f885192c0ef5
  | simon64_128 | simon128_192 => 0xfc2ce51207a635db
  | simon128_256 => 0xfdc94c3a046d678b

/-- The end of the z-driven index range [m, zEnd) (R136). -/
def zEnd : Variant → Nat
  | simon64_96 => 42
  | simon64_128 => 44
  | simon128_128 => 66
  | simon128_192 => 67
  | simon128_256 => 68

/-- The bit terms of the indices from zEnd on (R137). -/
def tail : Variant → List (BitVec 1)
  | simon64_96 | simon64_128 => []
  | simon128_128 => [1, 0]
  | simon128_192 => [0, 1]
  | simon128_256 => [0, 1, 0, 0]

end Variant

/-- c = ~3, the top constant of a width (R131). -/
def topConst (n : Nat) : BitVec n := ~~~(BitVec.ofNat n 3)

/-- KEYSETUP's choice of a variant from W and L (R130); every other pair selects none. -/
def selectVariant (w : Width) (len : Nat) : Option Variant :=
  match w, len with
  | .w32, 12 => some .simon64_96
  | .w32, 16 => some .simon64_128
  | .w64, 16 => some .simon128_128
  | .w64, 24 => some .simon128_192
  | .w64, 32 => some .simon128_256
  | _, _ => none

/-- The constant ID register, "SIMN" (R22). -/
def idValue : Word := 0x53494D4E

/-- The constant CAP register, one bit a variant (R36). -/
def capValue : Word := 0x0000001F

end Sys2Proof
end

