-- ==== Sys2Proof/Machine/Flags.lean ====
section
/-! DEFINITION. The derived flags of the core (R20), the STATUS word (R24, R55), the interrupt line (R220) and the error
codes (R211). No arithmetic flag exists (R37). -/

namespace Sys2Proof.Machine

/-- STATUS.BUSY: the command slot is taken (R20, R33). -/
def State.busy (s : State) : Bool := s.pending.isSome

/-- STATUS.KEYED: a schedule is loaded (R20, R32). -/
def State.keyed (s : State) : Bool := s.variant.isSome

/-- STATUS.BS: the loaded schedule is a SIMON-128 one (R20, R24). -/
def State.bs (s : State) : Bool :=
  match s.variant with
  | none => false
  | some V => V.width = .w64

/-- The ROUNDS register's value: R of the loaded variant, or 0 (R20, R27). -/
def State.roundCount (s : State) : Nat :=
  match s.variant with
  | none => 0
  | some V => V.rounds

/-- The irq output: CFG.IE AND STATUS.DONE, level-sensitive (R220). -/
def State.irq (s : State) : Bool := s.cfgIe && s.done

/-- One bit of a register. -/
def bitOf (b : Bool) : BitVec 1 := BitVec.ofBool b

/-- STATUS as the host reads it: BS : ERR : KEYED : OVR : DONE : BUSY, zero-extended (R24, R55). -/
def State.statusWord (s : State) : Word :=
  (bitOf s.bs ++ s.err ++ bitOf s.keyed ++ bitOf s.ovr ++ bitOf s.done ++ bitOf s.busy).setWidth 32

/-- The errors a command can end with (R211). -/
inductive CmdError where
  /-- The word is no command, R212. -/
  | illegal
  /-- (W, L) selects no variant, R213. -/
  | keylen
  /-- No schedule is loaded, R214. -/
  | nokey
deriving DecidableEq, Repr

/-- The code recorded in STATUS.ERR (R211); 0 is success, 4 to 15 are never produced. -/
def CmdError.code : CmdError → BitVec 4
  | .illegal => 1
  | .keylen => 2
  | .nokey => 3

end Sys2Proof.Machine
end

