-- ==== Sys2Proof/Machine/Operands.lean ====
section
/-! DEFINITION. Every operand form of the commands: the width and amount operands (R82, R102), the block and word operands
read from DIN (R59, R105), the result written to DOUT (R60), the user-key words read from KEY (R58), and the byte strings
these stand for (R9, R57). -/

namespace Sys2Proof.Machine

/-- A rotation amount 0 to 63 is reduced modulo w (R102). -/
def reduceAmount (w : Width) (a : Nat) : Nat := a % w.bits

/-- The x word of the input block at width w (R59); also the one operand of the rotator and FMIX commands (R105). -/
def xOperand (w : Width) (din : Vector Word 4) : BitVec w.bits :=
  match w with
  | .w32 => din[0]
  | .w64 => din[0] ++ din[1]

/-- The y word of the input block at width w (R59). -/
def yOperand (w : Width) (din : Vector Word 4) : BitVec w.bits :=
  match w with
  | .w32 => din[1]
  | .w64 => din[2] ++ din[3]

/-- The input block (x, y) (R59). -/
def blockOperand (w : Width) (din : Vector Word 4) : Block w.bits := (xOperand w din, yOperand w din)

/-- The upper half of a 64-bit word (R60). -/
def hiWord (v : BitVec 64) : Word := v.extractLsb' 32 32
/-- The lower half of a 64-bit word (R60). -/
def loWord (v : BitVec 64) : Word := v.extractLsb' 0 32

/-- The four DOUT words that carry a block result (R60). -/
def blockResult (w : Width) (b : Block w.bits) : Vector Word 4 :=
  match w, b with
  | .w32, (x, y) => #v[x, y, 0, 0]
  | .w64, (x, y) => #v[hiWord x, loWord x, hiWord y, loWord y]

/-- The four DOUT words that carry a single-word result (R60, R105). -/
def wordResult (w : Width) (r : BitVec w.bits) : Vector Word 4 :=
  match w, r with
  | .w32, r => #v[r, 0, 0, 0]
  | .w64, r => #v[hiWord r, loWord r, 0, 0]

/-- Word i of the user key at width w (R58): KEYi, or KEY(2i) : KEY(2i+1). Asked for i < m only; no register lies beyond
KEY7 for those (log 17). -/
def userKeyWord (w : Width) (key : Vector Word 8) (i : Nat) : BitVec w.bits :=
  match w with
  | .w32 => (key[i]?).getD 0
  | .w64 => (key[2 * i]?).getD 0 ++ (key[2 * i + 1]?).getD 0

/-- userKey[0..m) of a variant (R58, R132). -/
def userKey (V : Variant) (key : Vector Word 8) : List (BitVec V.width.bits) :=
  (List.range V.keyWords).map (userKeyWord V.width key)

/-- The byte `t` (0 to 3) of a register in string order: bits [31-8t : 24-8t] (R57). -/
def byteLane (r : Word) (t : Nat) : Byte := r.extractLsb' (24 - 8 * t) 8

/-- The byte string that a list of registers holds, KB, IB or OB (R57). -/
def registerBytes (regs : List Word) : List Byte :=
  regs.flatMap fun r => (List.range 4).map (byteLane r)

/-- BE(B): the big-endian value of a byte string (R9). -/
def bigEndian (bs : List Byte) : Nat := bs.foldl (fun acc b => acc * 256 + b.toNat) 0

/-- BEbytes_n(v): the n bytes of v, the most significant first (R9). -/
def bigEndianBytes (n v : Nat) : List Byte :=
  (List.range n).map fun j => BitVec.ofNat 8 (v / 256 ^ (n - 1 - j))

end Sys2Proof.Machine
end

