-- ==== Sys2Proof/Machine/Ops.lean ====
section
/-! DEFINITION. The named operations on the state: completing a command, with success or with an error (R191, R192: the
core's form of taking an exception), accepting one (R190), the register window (R52 to R56), reset (R240). -/

namespace Sys2Proof.Machine

/-! ## Completion (R191, R192, R218) and its acknowledgement (R219) -/

/-- The commit every completion ends in: ERR is the code, the slot empties, DONE rises (R191). -/
def State.commit (code : BitVec 4) (s : State) : State :=
  { s with err := code, pending := none, done := true }

/-- A successful completion of a command whose writes are already in `s` (R191). -/
def State.completeOk (s : State) : State := s.commit 0

/-- A failed completion: only ERR, BUSY and DONE change (R192). -/
def State.completeError (e : CmdError) (s : State) : State := s.commit e.code

/-- The host's acknowledgement, a 1 written to STATUS bit 1 (R219); bit 2 clears OVR the same way (R24, R56). -/
def State.writeOneToClear (v : Word) (s : State) : State :=
  { s with done := s.done && !v.getLsbD 1, ovr := s.ovr && !v.getLsbD 2 }

/-! ## Acceptance (R190) and dropped writes (R215) -/

/-- A write dropped because the core is busy: only OVR changes (R56). -/
def State.dropWrite (s : State) : State := { s with ovr := true }

/-- A word taken into the slot of an idle core (R190). -/
def State.takeCommand (v : Word) (s : State) : State :=
  { s with pending := some v, done := false, err := 0 }

/-- Accept(v) (R190): taken whole and not decoded, or dropped while busy. -/
def State.accept (v : Word) (s : State) : State :=
  if s.busy then s.dropWrite else s.takeCommand v

/-! ## The results of commands -/

/-- All four DOUT registers are written at once (R30, R60). -/
def State.writeDout (d : Vector Word 4) (s : State) : State := { s with dout := d }

/-- A new schedule and its variant (R140). -/
def State.loadSchedule (V : Variant) (rk : Vector (BitVec 64) 72) (s : State) : State :=
  { s with rk := rk, variant := some V }

/-- Key material and block data are wiped; CFG, ROTAMT and OVR stay (R194). -/
def State.wipe (s : State) : State :=
  { s with
    rk := Vector.replicate 72 0, key := Vector.replicate 8 0, din := Vector.replicate 4 0,
    dout := Vector.replicate 4 0, variant := none }

/-! ## The register window (R52) -/

/-- The registers of the window (R52). -/
inductive Reg where
  | id
  | cfg
  | status
  | cmd
  | rotamt
  | rounds
  | cap
  | key (j : Fin 8)
  | din (j : Fin 4)
  | dout (j : Fin 4)
  | reserved
deriving DecidableEq, Repr

/-- The address map (R52). Asked at offsets that are multiples of 4 (R53). -/
def regAt (off : BitVec 8) : Reg :=
  let a := off.toNat
  if a = 0x00 then .id
  else if a = 0x04 then .cfg
  else if a = 0x08 then .status
  else if a = 0x0C then .cmd
  else if a = 0x10 then .rotamt
  else if a = 0x14 then .rounds
  else if a = 0x18 then .cap
  else if h : 0x20 ≤ a ∧ a < 0x40 then .key ⟨(a - 0x20) / 4, by omega⟩
  else if h : 0x40 ≤ a ∧ a < 0x50 then .din ⟨(a - 0x40) / 4, by omega⟩
  else if h : 0x50 ≤ a ∧ a < 0x60 then .dout ⟨(a - 0x50) / 4, by omega⟩
  else .reserved

/-- What a read of a register returns; no read has a side effect (R55). CMD and KEYj are write-only and read 0. -/
def State.readReg (s : State) : Reg → Word
  | .id => idValue
  | .cfg => (bitOf s.cfgIe).setWidth 32
  | .status => s.statusWord
  | .cmd => 0
  | .rotamt => s.rotamt.setWidth 32
  | .rounds => BitVec.ofNat 32 s.roundCount
  | .cap => capValue
  | .key _ => 0
  | .din j => s.din[j]
  | .dout j => s.dout[j]
  | .reserved => 0

/-- A write that the core drops while busy (R56, R215). -/
def State.unlessBusy (s t : State) : State := if s.busy then s.dropWrite else t

/-- What a write of `v` to a register does (R56). CFG and STATUS are never dropped; read-only and reserved registers
ignore the write, without a flag. -/
def State.writeReg (v : Word) (s : State) : Reg → State
  | .cfg => { s with cfgIe := v.getLsbD 0 }
  | .status => s.writeOneToClear v
  | .cmd => s.accept v
  | .rotamt => s.unlessBusy { s with rotamt := v.setWidth 6 }
  | .key j => s.unlessBusy { s with key := s.key.set j v }
  | .din j => s.unlessBusy { s with din := s.din.set j v }
  | .id => s
  | .rounds => s
  | .cap => s
  | .dout _ => s
  | .reserved => s

/-! ## Bus accesses (R50, R53) -/

/-- A legal access is 4 bytes wide at a multiple of 4 (R53); every other bus_size is illegal (log 13). -/
def Access.legal (a : Access) : Bool := a.size = 4 && a.off.toNat % 4 = 0

/-- The response to an access in a state (R53, R55): a bus error reads 0. -/
def State.respond (a : Access) (s : State) : Response where
  err := !a.legal
  rdata := if a.we then none else some (if a.legal then s.readReg (regAt a.off) else 0)

/-- The effect of an access on the core: that of a legal write (R56), else none (R53, R55). -/
def State.afterAccess (a : Access) (s : State) : State :=
  if a.legal && a.we then s.writeReg a.wdata (regAt a.off) else s

/-- The response of an access stands on the port. -/
def State.setRsp (r : Response) (s : State) : State := { s with rsp := some r }

/-- One host step: the access is performed whole, on the state before it (R62, R63). -/
def State.busAccess (a : Access) (s : State) : State := (s.afterAccess a).setRsp (s.respond a)

/-- A host address reaches the window at `address - base`, or not at all (R51). -/
def windowOffset (p : Config.Platform) (address : Nat) : Option (BitVec 8) :=
  if p.base ≤ address ∧ address < p.base + Config.windowBytes then some (BitVec.ofNat 8 (address - p.base)) else none

/-! ## Events -/

/-- The event list once an event has been taken from it. -/
def State.setEvents (es : List Event) (s : State) : State := { s with events := es }

/-- Reset: every field of R20 takes its reset value, a pending command is abandoned (R240, R241). What the outside still
presents is not the core's; the port holds no response (log 3). -/
def State.afterReset (s : State) : State := State.reset.setEvents s.events

end Sys2Proof.Machine
end

