-- ==== Sys2Proof/Machine/Primitives.lean ====
section
/-! DEFINITION. The functions of the datapath on n-bit words: the rotator (R100, R101), the round helper f (R103) and the
paired-round step R2 (R104). -/

namespace Sys2Proof.Machine

variable {n : Nat}

/-- ROL_w(v, k) for 0 ≤ k < w (R100). -/
def rol (v : BitVec n) (k : Nat) : BitVec n :=
  if k = 0 then v else (v <<< k) ||| (v >>> (n - k))

/-- ROR_w(v, k) for 0 ≤ k < w (R101). -/
def ror (v : BitVec n) (k : Nat) : BitVec n :=
  if k = 0 then v else (v >>> k) ||| (v <<< (n - k))

/-- The round helper f, the AND/XOR tree (R103). -/
def mix (v : BitVec n) : BitVec n := (rol v 1 &&& rol v 8) ^^^ rol v 2

/-- The paired-round step R2(x, y, k, l); the new y feeds the new x (R104). -/
def pairStep (x y k l : BitVec n) : Block n :=
  let y' := y ^^^ mix x ^^^ k
  let x' := x ^^^ mix y' ^^^ l
  (x', y')

end Sys2Proof.Machine
end

