-- ==== Sys2Proof/Machine/BlockCipher.lean ====
section
/-! DEFINITION. The Feistel-round engine (R160, R162) and ENCRYPT and DECRYPT. -/

namespace Sys2Proof.Machine

variable {n : Nat}

/-- One pass of the encryption loop at i = 2j: R2(x, y, k[i], k[i+1]) (R160). -/
def encryptPass (k : Nat → BitVec n) (b : Block n) (j : Nat) : Block n :=
  pairStep b.1 b.2 (k (2 * j)) (k (2 * j + 1))

/-- One pass of the decryption loop at i = 2j: (y, x) ← R2(y, x, k[i+1], k[i]) (R162). -/
def decryptPass (k : Nat → BitVec n) (b : Block n) (j : Nat) : Block n :=
  (pairStep b.2 b.1 (k (2 * j + 1)) (k (2 * j))).swap

/-- Encrypt_V: the loop over i = 0, 2, 4, … < R - 1, then the odd tail with its swap (R160). -/
def encryptBlock (rounds : Nat) (k : Nat → BitVec n) (b : Block n) : Block n :=
  let (x, y) := (List.range (rounds / 2)).foldl (encryptPass k) b
  if rounds % 2 = 1 then (y ^^^ mix x ^^^ k (rounds - 1), x) else (x, y)

/-- Decrypt_V: the odd tail undone first, then the loop downwards (R162). -/
def decryptBlock (rounds : Nat) (k : Nat → BitVec n) (b : Block n) : Block n :=
  let (x, y) := if rounds % 2 = 1 then (b.2, b.1 ^^^ k (rounds - 1) ^^^ mix b.2) else b
  (List.range (rounds / 2)).reverse.foldl (decryptPass k) (x, y)

/-- k[i] = rk[i][w-1:0] (R164, R165); asked for i < R ≤ 72 only (log 17). -/
def ramKey (rk : Vector (BitVec 64) 72) (i : Nat) : BitVec n := ((rk[i]?).getD 0).setWidth n

/-- A block command under the loaded variant: NOKEY without one, else the transform of the DIN block in DOUT (R164, R165). -/
def blockCommand
    (transform : (n : Nat) → (rounds : Nat) → (k : Nat → BitVec n) → Block n → Block n) (s : State) : State :=
  match s.variant with
  | none => s.completeError .nokey
  | some V =>
    (s.writeDout (blockResult V.width
      (transform V.width.bits V.rounds (ramKey s.rk) (blockOperand V.width s.din)))).completeOk

/-- ENCRYPT (R164). -/
def execEncrypt (s : State) : Host.Outcome State Fault Refusal :=
  .next (blockCommand (fun _ => encryptBlock) s)

/-- DECRYPT (R165). -/
def execDecrypt (s : State) : Host.Outcome State Fault Refusal :=
  .next (blockCommand (fun _ => decryptBlock) s)

end Sys2Proof.Machine
end

