-- ==== Sys2Proof/Machine/KeySchedule.lean ====
section
/-! DEFINITION. The key-schedule expander (R130 to R140) and KEYSETUP. The expander's window is the list of the round keys
so far, the newest first, so that k[i-j] stands at place j-1. -/

namespace Sys2Proof.Machine

variable {n : Nat}

/-- k[i-j], for 1 ≤ j ≤ i, where `ks` is k[i-1], k[i-2], …, k[0]; never asked beyond k[0] (log 17). -/
def keyBack (ks : List (BitVec n)) (j : Nat) : BitVec n := ks.getD (j - 1) 0

/-- tmp of the recurrence: R134 for m = 2 and 3, R135 for m = 4. -/
def recurrenceTmp (m : Nat) (ks : List (BitVec n)) : BitVec n :=
  if m = 4 then
    ror (keyBack ks 1) 3 ^^^ keyBack ks 3 ^^^ ror (keyBack ks 1) 4 ^^^ ror (keyBack ks 3) 1
  else
    ror (keyBack ks 1) 3 ^^^ ror (keyBack ks 1) 4

/-- k[i] = c XOR b XOR k[i-m] XOR tmp (R134, R135). -/
def deriveKey (m : Nat) (b : BitVec 1) (ks : List (BitVec n)) : BitVec n :=
  topConst n ^^^ b.setWidth n ^^^ keyBack ks m ^^^ recurrenceTmp m ks

/-- The z-driven indices: `count` keys, each with the low bit of z, which then shifts right (R136, R138). -/
def expandZ (m : Nat) : (count : Nat) → (z : BitVec 64) → List (BitVec n) → List (BitVec n)
  | 0, _, ks => ks
  | count + 1, z, ks => expandZ m count (z >>> 1) (deriveKey m (z.extractLsb' 0 1) ks :: ks)

/-- The tail indices, with the literal bit terms of R137. -/
def expandTail (m : Nat) : (terms : List (BitVec 1)) → List (BitVec n) → List (BitVec n)
  | [], ks => ks
  | b :: bs, ks => expandTail m bs (deriveKey m b ks :: ks)

/-- The seed k[0..m): the user-key words in reverse order (R133). -/
def seedKeys (uk : List (BitVec n)) : List (BitVec n) := uk.reverse

/-- The round keys k[0..R) of a variant, from its user-key words (R140). -/
def expand (V : Variant) (uk : List (BitVec n)) : List (BitVec n) :=
  (expandTail V.keyWords V.tail
    (expandZ V.keyWords (V.zEnd - V.keyWords) V.z (seedKeys uk).reverse)).reverse

/-- k[0..R) of a variant for a key buffer (R132, R140). -/
def roundKeys (V : Variant) (key : Vector Word 8) : List (BitVec V.width.bits) := expand V (userKey V key)

/-- The round-key RAM that holds a list of round keys: zext_64 of each, 0 beyond (R31). -/
def ramOf (ks : List (BitVec n)) : Vector (BitVec 64) 72 :=
  Vector.ofFn fun i => ((ks.map (BitVec.setWidth 64)).getD i.val 0)

/-- The RAM after a successful KEYSETUP for V (R31, R140). -/
def scheduleRam (V : Variant) (key : Vector Word 8) : Vector (BitVec 64) 72 := ramOf (roundKeys V key)

/-- KEYSETUP: select the variant, expand the key, load the schedule; KEYLEN, and nothing else changed, when (W, L)
selects none (R140, R141). -/
def execKeysetup (w : Width) (len : Nat) (s : State) : Host.Outcome State Fault Refusal :=
  match selectVariant w len with
  | none => .next (s.completeError .keylen)
  | some V => .next (s.loadSchedule V (scheduleRam V s.key)).completeOk

end Sys2Proof.Machine
end

