-- ==== Sys2Proof/Machine/Lifecycle.lean ====
section
/-! DEFINITION. The commands without cipher arithmetic: NOP and ZEROIZE. -/

namespace Sys2Proof.Machine

/-- NOP completes without effect (R193). -/
def execNop (s : State) : Host.Outcome State Fault Refusal :=
  .next s.completeOk

/-- ZEROIZE wipes the schedule, the keys, the block buffers and the variant (R194). -/
def execZeroize (s : State) : Host.Outcome State Fault Refusal :=
  .next s.wipe.completeOk

end Sys2Proof.Machine
end

