-- ==== Sys2Proof/Machine/Rotator.lean ====
section
/-! DEFINITION. The commands that expose the word rotator and f (R105): ROLI, RORI, ROLV, RORV, FMIX. They read neither the
schedule nor KEYED, and write DOUT alone. -/

namespace Sys2Proof.Machine

/-- A word command: a function of the x word of DIN, its result a single word in DOUT (R105). -/
def wordCommand (w : Width) (op : BitVec w.bits → BitVec w.bits) (s : State) : State :=
  (s.writeDout (wordResult w (op (xOperand w s.din)))).completeOk

/-- ROLI: rotate left by k mod w (R106). -/
def execRoli (w : Width) (k : Nat) (s : State) : Host.Outcome State Fault Refusal :=
  .next (wordCommand w (fun op => rol op (reduceAmount w k)) s)

/-- RORI: rotate right by k mod w (R107). -/
def execRori (w : Width) (k : Nat) (s : State) : Host.Outcome State Fault Refusal :=
  .next (wordCommand w (fun op => ror op (reduceAmount w k)) s)

/-- ROLV: rotate left by ROTAMT mod w, read at completion (R108). -/
def execRolv (w : Width) (s : State) : Host.Outcome State Fault Refusal :=
  .next (wordCommand w (fun op => rol op (reduceAmount w s.rotamt.toNat)) s)

/-- RORV: rotate right by ROTAMT mod w, read at completion (R109). -/
def execRorv (w : Width) (s : State) : Host.Outcome State Fault Refusal :=
  .next (wordCommand w (fun op => ror op (reduceAmount w s.rotamt.toNat)) s)

/-- FMIX: f_w of the operand (R110). -/
def execFmix (w : Width) (s : State) : Host.Outcome State Fault Refusal :=
  .next (wordCommand w mix s)

end Sys2Proof.Machine
end

