-- ==== Sys2Proof/Machine/Dispatch.lean ====
section
/-! DEFINITION. The completion of each command (R191): one arm a constructor. -/

namespace Sys2Proof.Machine

/-- The completion of command `i` on state `s`: its effect and the commit (R191, R192). -/
def exec (i : Instr) (s : State) : Host.Outcome State Fault Refusal :=
  match i with
  | .nop => Sys2Proof.Machine.execNop s
  | .keysetup w len => Sys2Proof.Machine.execKeysetup w len s
  | .encrypt => Sys2Proof.Machine.execEncrypt s
  | .decrypt => Sys2Proof.Machine.execDecrypt s
  | .roli w k => Sys2Proof.Machine.execRoli w k s
  | .rori w k => Sys2Proof.Machine.execRori w k s
  | .rolv w => Sys2Proof.Machine.execRolv w s
  | .rorv w => Sys2Proof.Machine.execRorv w s
  | .fmix w => Sys2Proof.Machine.execFmix w s
  | .zeroize => Sys2Proof.Machine.execZeroize s

end Sys2Proof.Machine
end

