-- ==== Sys2Proof/Machine/Turn.lean ====
section
/-! DEFINITION. Whose turn it is (R11): the core's completion of the command in its slot (R191), a host access (R63), or
reset (R240). -/

namespace Sys2Proof.Machine

/-- Complete (R191) for the word `v` taken from the slot: decode it, then its command, or ILLEGAL (R88, R212). -/
def complete (v : Word) (s : State) : Host.Outcome State Fault Refusal :=
  match decode v with
  | .ok i => exec i s
  | .error _ => .next (s.completeError .illegal)

/-- The core's turn: its one step, enabled exactly when a command is pending (R191); an idle core keeps all its state
(R227). -/
def coreTurn (s : State) : Host.Outcome State Fault Refusal :=
  match s.pending with
  | some v => complete v s
  | none => .next s

/-- One turn, on the state whose event list no longer holds the event. -/
def takeTurn (e : Event) (s : State) : Host.Outcome State Fault Refusal :=
  match e with
  | .core => coreTurn s
  | .bus a => .next (s.busAccess a)
  | .rst none => .next s.afterReset
  | .rst (some _) => .fault .accessDuringReset

/-- One step of the machine: the next event's turn; with none presented the core moves, so an enabled completion
eventually happens (R191, R249; log 2). -/
def nextTurn (s : State) : Host.Outcome State Fault Refusal :=
  match s.events with
  | [] => coreTurn s
  | e :: es => takeTurn e (s.setEvents es)

/-- A command word placed in the slot as acceptance places it (R190), the core's turn next (log 9). -/
def placeCommand (v : Word) (s : State) : State :=
  (s.takeCommand v).setEvents (.core :: s.events)

end Sys2Proof.Machine
end

