-- ==== Sys2Proof/Machine/Step.lean ====
section
/-! DEFINITION. The step function, and the placing of a command where the step takes its next one. -/

namespace Sys2Proof.Machine

/-- One step: a host access, a reset, or the completion of the pending command (R11, R63). -/
def step (s : State) : Host.Outcome State Fault Refusal := nextTurn s

/-- `s` with the command word of the table's row in the command slot and the core's turn next, so that the very next step
decodes and completes it (R190, R191; log 9). -/
def State.withFetchWord (s : State) (nbits w : Nat) : State := placeCommand (tableWord nbits w) s

end Sys2Proof.Machine
end

