-- ==== Sys2Proof/Machine/Assembler.lean ====
section
/-! DEFINITION. The assembler's rules (R89): a line is a mnemonic, a width suffix where the command uses W, and `#n` where
it uses IMM6, n decimal or hex with `0x`. Where spaces may stand is the model's choice (log 15). -/

namespace Sys2Proof.Machine

/-- The mnemonics (R85). -/
inductive Mnemonic where
  | nop
  | keysetup
  | encrypt
  | decrypt
  | roli
  | rori
  | rolv
  | rorv
  | fmix
  | zeroize
deriving DecidableEq, Repr

/-- The suffixes `.32`, `.64` and `.128` (R89). -/
inductive Suffix where
  | s32
  | s64
  | s128
deriving DecidableEq, Repr

/-- One line of assembler (R89). -/
structure AsmLine where
  mnemonic : Mnemonic
  suffix   : Option Suffix
  imm      : Option Nat
deriving DecidableEq, Repr

/-- The suffix of KEYSETUP names the block size (R89). -/
def blockSuffix : Suffix → Option Width
  | .s64 => some .w32
  | .s128 => some .w64
  | .s32 => none

/-- Every other suffix names the word width (R89). -/
def wordSuffix : Suffix → Option Width
  | .s32 => some .w32
  | .s64 => some .w64
  | .s128 => none

/-- An assembler refuses n > 63 (R89). -/
def smallImm (n : Nat) : Option Nat := if n ≤ maxImm then some n else none

/-- The command of a line; `none` where the assembler refuses it (R89). -/
def assemble (l : AsmLine) : Option Instr :=
  match l.mnemonic, l.suffix, l.imm with
  | .nop, none, none => some .nop
  | .encrypt, none, none => some .encrypt
  | .decrypt, none, none => some .decrypt
  | .zeroize, none, none => some .zeroize
  | .keysetup, some f, some n => (blockSuffix f).bind fun w => (smallImm n).map fun k => .keysetup w k
  | .roli, some f, some n => (wordSuffix f).bind fun w => (smallImm n).map fun k => .roli w k
  | .rori, some f, some n => (wordSuffix f).bind fun w => (smallImm n).map fun k => .rori w k
  | .rolv, some f, none => (wordSuffix f).map .rolv
  | .rorv, some f, none => (wordSuffix f).map .rorv
  | .fmix, some f, none => (wordSuffix f).map .fmix
  | _, _, _ => none

/-- The suffix that names a block size. -/
def suffixOfBlock : Width → Suffix
  | .w32 => .s64
  | .w64 => .s128

/-- The suffix that names a word width. -/
def suffixOfWord : Width → Suffix
  | .w32 => .s32
  | .w64 => .s64

/-- The line of a command (R89). -/
def lineOf : Instr → AsmLine
  | .nop => ⟨.nop, none, none⟩
  | .keysetup w len => ⟨.keysetup, some (suffixOfBlock w), some len⟩
  | .encrypt => ⟨.encrypt, none, none⟩
  | .decrypt => ⟨.decrypt, none, none⟩
  | .roli w k => ⟨.roli, some (suffixOfWord w), some k⟩
  | .rori w k => ⟨.rori, some (suffixOfWord w), some k⟩
  | .rolv w => ⟨.rolv, some (suffixOfWord w), none⟩
  | .rorv w => ⟨.rorv, some (suffixOfWord w), none⟩
  | .fmix w => ⟨.fmix, some (suffixOfWord w), none⟩
  | .zeroize => ⟨.zeroize, none, none⟩

/-! ## The characters of a line -/

/-- The letters of a mnemonic (R85). -/
def Mnemonic.letters : Mnemonic → List Char
  | .nop => ['N', 'O', 'P']
  | .keysetup => ['K', 'E', 'Y', 'S', 'E', 'T', 'U', 'P']
  | .encrypt => ['E', 'N', 'C', 'R', 'Y', 'P', 'T']
  | .decrypt => ['D', 'E', 'C', 'R', 'Y', 'P', 'T']
  | .roli => ['R', 'O', 'L', 'I']
  | .rori => ['R', 'O', 'R', 'I']
  | .rolv => ['R', 'O', 'L', 'V']
  | .rorv => ['R', 'O', 'R', 'V']
  | .fmix => ['F', 'M', 'I', 'X']
  | .zeroize => ['Z', 'E', 'R', 'O', 'I', 'Z', 'E']

/-- Every mnemonic, in the order of the opcode map. -/
def mnemonics : List Mnemonic :=
  [.nop, .keysetup, .encrypt, .decrypt, .roli, .rori, .rolv, .rorv, .fmix, .zeroize]

/-- The characters of a suffix (R89). -/
def Suffix.letters : Suffix → List Char
  | .s32 => ['3', '2']
  | .s64 => ['6', '4']
  | .s128 => ['1', '2', '8']

/-- Every suffix. -/
def suffixes : List Suffix := [.s32, .s64, .s128]

/-- The characters before the first `c`, and those after it where there is one. -/
def cutAt (c : Char) : List Char → List Char × Option (List Char)
  | [] => ([], none)
  | x :: xs => if x = c then ([], some xs) else ((x :: (cutAt c xs).1), (cutAt c xs).2)

/-- The tokens of a line: spaces separate them (log 15). -/
def tokens : List Char → List (List Char)
  | [] => []
  | x :: xs =>
    if x = ' ' then tokens xs
    else
      match xs, tokens xs with
      | [], _ => [[x]]
      | _ :: _, [] => [[x]]
      | y :: _, t :: ts => if y = ' ' then [x] :: t :: ts else (x :: t) :: ts

/-- The value of a digit below the base; both cases of a hex digit (log 15). -/
def digitValue (base : Nat) (c : Char) : Option Nat :=
  let n := c.toNat
  let v := if 48 ≤ n ∧ n ≤ 57 then n - 48 else if 65 ≤ n ∧ n ≤ 70 then n - 55 else if 97 ≤ n ∧ n ≤ 102 then n - 87 else 16
  if v < base then some v else none

/-- The value of a row of digits, `none` where there is none or one is no digit. -/
def digitsValue (base : Nat) : List Char → Option Nat
  | [] => none
  | c :: cs => (c :: cs).foldl (fun acc d => acc.bind fun a => (digitValue base d).map (a * base + ·)) (some 0)

/-- A number: decimal, or hex with `0x` (R89). -/
def numberValue : List Char → Option Nat
  | '0' :: 'x' :: cs => digitsValue 16 cs
  | cs => digitsValue 10 cs

/-- `NAME` or `NAME.suffix`. -/
def parseName (cs : List Char) : Option (Mnemonic × Option Suffix) :=
  match cutAt '.' cs with
  | (name, none) => (mnemonics.find? fun m => m.letters = name).map fun m => (m, none)
  | (name, some rest) =>
    (mnemonics.find? fun m => m.letters = name).bind fun m =>
      (suffixes.find? fun f => f.letters = rest).map fun f => (m, some f)

/-- `#n`. -/
def parseImm : List Char → Option Nat
  | '#' :: cs => numberValue cs
  | _ => none

/-- One line of assembler, from its characters; `none` where it has no such form (R89). -/
def parseLine (cs : List Char) : Option AsmLine :=
  match tokens cs with
  | [name] => (parseName name).map fun p => ⟨p.1, p.2, none⟩
  | [name, imm] => (parseName name).bind fun p => (parseImm imm).map fun n => ⟨p.1, p.2, some n⟩
  | _ => none

/-- The command word of a line of text; `none` where the assembler refuses it (R89). -/
def assembleText (cs : List Char) : Option Word := (parseLine cs).bind fun l => (assemble l).map encode

/-- The characters of a line, its number decimal (R89). -/
def AsmLine.text (l : AsmLine) : List Char :=
  l.mnemonic.letters ++
  (match l.suffix with
   | none => []
   | some f => '.' :: f.letters) ++
  (match l.imm with
   | none => []
   | some n => ' ' :: '#' :: Nat.toDigits 10 n)

end Sys2Proof.Machine
end

