-- ==== Sys2Proof/Machine/HostProgram.lean ====
section
/-! DEFINITION. Host programs (R90): the statements, as the operations they stand for, and the host that runs them beside the
core, one bus access at a time (R11). The host's variables and its place in the program are no state of the core (R195). -/

namespace Sys2Proof.Machine

/-! ## Accesses -/

/-- `MemRead(off, 4)` (R55). -/
def readAccess (off : BitVec 8) : Access := ⟨false, off, 4, 0⟩

/-- `MemWrite(off, 4, v)` (R56). -/
def writeAccess (off : BitVec 8) (v : Word) : Access := ⟨true, off, 4, v⟩

/-- A host access at a platform address, or nothing where the address is outside the window (R51). -/
def addressedEvents (p : Config.Platform) (address : Nat) (we : Bool) (size : BitVec 4) (wdata : Word) : List Event :=
  match windowOffset p address with
  | none => []
  | some off => [.bus ⟨we, off, size, wdata⟩]

/-! ## Statements -/

/-- A host-side expression on 32-bit values (R90), and the bit slice of R7. A shift by 32 or more, a slice with hi below lo or
past bit 31 have the values log 14 names. -/
inductive HostExpr where
  | lit (v : Word)
  | var (name : String)
  | add (a b : HostExpr)
  | sub (a b : HostExpr)
  | and (a b : HostExpr)
  | or (a b : HostExpr)
  | xor (a b : HostExpr)
  | shl (a b : HostExpr)
  | shr (a b : HostExpr)
  | slice (a : HostExpr) (hi lo : Nat)
deriving DecidableEq, Repr

/-- A condition: the two forms the spec's programs use (log 14). -/
inductive HostCond where
  | eq (a b : HostExpr)
  | ne (a b : HostExpr)
deriving DecidableEq, Repr

/-- A host statement (R90). -/
inductive HostStmt where
  | wr (off : BitVec 8) (v : HostExpr)
  | rd (off : BitVec 8) (name : String)
  | cmd (i : Instr)
  | wait
  | run (i : Instr)
  | ack
  | assign (name : String) (e : HostExpr)
  | label (l : String)
  | goto (l : String)
  | ifGoto (c : HostCond) (l : String)
deriving DecidableEq, Repr

/-- What a statement is made of: at most one bus access each (R90). -/
inductive HostOp where
  | wr (off : BitVec 8) (v : HostExpr)
  | rd (off : BitVec 8) (name : String)
  /-- One turn of `wait`: read STATUS, and stay here while BUSY = 1. That the read and the branch on it are one turn, and that
  the value goes to no variable, is the model's choice (DESIGN CHOICE, log 14). -/
  | poll
  | assign (name : String) (e : HostExpr)
  | label (l : String)
  | goto (l : String)
  | ifGoto (c : HostCond) (l : String)
deriving DecidableEq, Repr

/-- The meaning column of R90. -/
def HostStmt.ops : HostStmt → List HostOp
  | .wr off v => [.wr off v]
  | .rd off name => [.rd off name]
  | .cmd i => [.wr 0x0C (.lit (encode i))]
  | .wait => [.poll]
  | .run i => [.wr 0x0C (.lit (encode i)), .poll]
  | .ack => [.wr 0x08 (.lit 0x00000002)]
  | .assign name e => [.assign name e]
  | .label l => [.label l]
  | .goto l => [.goto l]
  | .ifGoto c l => [.ifGoto c l]

/-- The operations of a program. -/
def programOps (stmts : List HostStmt) : List HostOp := stmts.flatMap HostStmt.ops

/-! ## The host -/

/-- The host's own state: its place in the program and its variables, the latest value of a name first. -/
structure HostState where
  pc   : Nat
  vars : List (String × Word)
deriving DecidableEq, Repr

/-- The value of an expression; `none` where it names a variable that has no value yet (log 14). -/
def HostExpr.eval (vars : List (String × Word)) : HostExpr → Option Word
  | .lit v => some v
  | .var name => vars.lookup name
  | .add a b => (a.eval vars).bind fun x => (b.eval vars).map fun y => x + y
  | .sub a b => (a.eval vars).bind fun x => (b.eval vars).map fun y => x - y
  | .and a b => (a.eval vars).bind fun x => (b.eval vars).map fun y => x &&& y
  | .or a b => (a.eval vars).bind fun x => (b.eval vars).map fun y => x ||| y
  | .xor a b => (a.eval vars).bind fun x => (b.eval vars).map fun y => x ^^^ y
  | .shl a b => (a.eval vars).bind fun x => (b.eval vars).map fun y => x <<< y
  | .shr a b => (a.eval vars).bind fun x => (b.eval vars).map fun y => x >>> y
  | .slice a hi lo => (a.eval vars).map fun x => (x.extractLsb hi lo).setWidth 32

/-- Whether a condition holds. -/
def HostCond.eval (vars : List (String × Word)) : HostCond → Option Bool
  | .eq a b => (a.eval vars).bind fun x => (b.eval vars).map fun y => x = y
  | .ne a b => (a.eval vars).bind fun x => (b.eval vars).map fun y => x ≠ y

/-- The operation after the next one. -/
def HostState.advance (h : HostState) : HostState := { h with pc := h.pc + 1 }

/-- A variable takes a value. -/
def HostState.setVar (name : String) (v : Word) (h : HostState) : HostState := { h with vars := (name, v) :: h.vars }

/-- The host goes to a label; `none` where the program has no such label. R90 does not say which of two equal labels a `goto`
reaches; that it is the first in the program is the model's choice, as is what a missing label does (DESIGN CHOICE, log 14). -/
def HostState.jump (ops : List HostOp) (l : String) (h : HostState) : Option HostState :=
  (ops.findIdx? fun o => o = .label l).map fun n => { h with pc := n }

/-- The access an operation presents, `none` where it accesses no bus (R90) or an expression has no value. -/
def HostState.access (h : HostState) : HostOp → Option Access
  | .wr off v => (v.eval h.vars).map (writeAccess off)
  | .rd off _ => some (readAccess off)
  | .poll => some (readAccess 0x08)
  | .assign _ _ => none
  | .label _ => none
  | .goto _ => none
  | .ifGoto _ _ => none

/-- What the host does with the response to its access: a read's value goes to its variable (0 after a bus error, R53), and
`wait` stays where it is while BUSY = 1 (R90). -/
def HostState.receive (h : HostState) (r : Response) : HostOp → HostState
  | .rd _ name => (h.setVar name (r.rdata.getD 0)).advance
  | .poll => if (r.rdata.getD 0).getLsbD 0 then h else h.advance
  | .wr _ _ => h.advance
  | .assign _ _ => h.advance
  | .label _ => h.advance
  | .goto _ => h.advance
  | .ifGoto _ _ => h.advance

/-- An operation that accesses no bus: host-side computation or control flow (R90). -/
def HostState.compute (ops : List HostOp) (h : HostState) : HostOp → Option HostState
  | .assign name e => (e.eval h.vars).map fun v => (h.setVar name v).advance
  | .label _ => some h.advance
  | .goto l => h.jump ops l
  | .ifGoto c l => (c.eval h.vars).bind fun b => if b then h.jump ops l else some h.advance
  | .wr _ _ => none
  | .rd _ _ => none
  | .poll => none

/-- The host's turn: its next operation, with at most one bus access (R11). `none` where the program has ended or an
expression or label has no value. -/
def hostTurn (ops : List HostOp) (h : HostState) (s : State) : Option (HostState × State) :=
  (ops[h.pc]?).bind fun o =>
    match h.access o with
    | some a => some (h.receive (s.respond a) o, s.busAccess a)
    | none => (h.compute ops o).map fun h' => (h', s)

/-- The host and the core together: at each place of the schedule the host (`true`) or the core (`false`) takes its turn
(R11, R63). The schedule is what the spec leaves open (R249). -/
def runSystem (ops : List HostOp) : (schedule : List Bool) → HostState × State → Option (HostState × State)
  | [], x => some x
  | true :: rest, x => (hostTurn ops x.1 x.2).bind (runSystem ops rest)
  | false :: rest, x =>
    match coreTurn x.2 with
    | .next t => runSystem ops rest (x.1, t)
    | .fault _ => none
    | .refused _ => none

/-! ## Events of a `run` -/

/-- The events of `run C` where `polls` reads of STATUS see BUSY = 1 before the command completes; the spec leaves that
number open (R249; log 14). -/
def runEvents (i : Instr) (polls : Nat) : List Event :=
  [.bus (writeAccess 0x0C (encode i))] ++ List.replicate polls (.bus (readAccess 0x08)) ++ [.core, .bus (readAccess 0x08)]

end Sys2Proof.Machine
end

