-- ==== Sys2Proof/Safety.lean ====
section
/-! DEFINITION. The terms the claims use: the invariant of the machine, what a completion leaves alone, what counts as a
lawful stream of events, and what a host may not learn. -/

namespace Sys2Proof.Machine

/-! ## The invariant -/

/-- The round-key RAM holds the schedule of the loaded variant for some key buffer, or zeros where no variant is loaded
(R31, R32). -/
def State.ScheduleHeld (s : State) : Prop :=
  match s.variant with
  | none => s.rk = Vector.replicate 72 0
  | some V => ∃ key : Vector Word 8, s.rk = scheduleRam V key

/-- The states the machine can be in. -/
structure State.Inv (s : State) : Prop where
  /-- DONE and ERR are 0 whenever BUSY is 1 (R24, R190). -/
  slot : s.busy = true → s.done = false ∧ s.err = 0
  /-- ERR is 0, 1, 2 or 3 (R211, I8 of 93). -/
  errCode : s.err.toNat ≤ 3
  /-- The RAM holds the loaded variant's schedule (R32). -/
  schedule : s.ScheduleHeld

/-! ## Completions -/

/-- A completion with that code, as far as it concerns every command: STATUS.ERR, DONE and BUSY are written (R191), and
OVR, CFG, ROTAMT and what stands on the ports are left alone. -/
structure Committed (code : BitVec 4) (s t : State) : Prop where
  err     : t.err = code
  done    : t.done = true
  pending : t.pending = none
  ovr     : t.ovr = s.ovr
  cfgIe   : t.cfgIe = s.cfgIe
  rotamt  : t.rotamt = s.rotamt
  rsp     : t.rsp = s.rsp
  events  : t.events = s.events

/-- The schedule, its variant and the input registers are left alone. -/
structure SameInputs (s t : State) : Prop where
  variant : t.variant = s.variant
  rk      : t.rk = s.rk
  key     : t.key = s.key
  din     : t.din = s.din

/-- The core moves next: its event is first, or no event is left. -/
def State.coreNext (s : State) : Prop := s.events = [] ∨ ∃ es, s.events = .core :: es

/-! ## Events -/

/-- A step on this event does not stop: it presents no access while rst is asserted (R240). -/
def Event.lawful : Event → Bool
  | .rst (some _) => false
  | _ => true

/-- The host accesses alone, performed in order (R63). -/
def State.busAccesses (as : List Access) (s : State) : State := as.foldl (fun t a => t.busAccess a) s

/-- The responses a host sees to those accesses, in order. -/
def State.responses : List Access → State → List Response
  | [], _ => []
  | a :: as, s => s.respond a :: (s.busAccess a).responses as

/-! ## The spec's second readings of the cipher -/

/-- Round_w((x, y), k), the single-round reading of the engine (R161). -/
def roundOnce {n : Nat} (b : Block n) (k : BitVec n) : Block n := (b.2 ^^^ mix b.1 ^^^ k, b.1)

/-- InvRound_w((x, y), k) (R163). -/
def invRound {n : Nat} (b : Block n) (k : BitVec n) : Block n := (b.2, b.1 ^^^ mix b.2 ^^^ k)

/-- The bit term of the derived index i, written out from the tables of R131, R136 and R137: bit i - m of z inside the
z-driven range, the literal terms in the tail. -/
def bitTerm : Variant → Nat → Bool
  | .simon64_96, i => (0x7369f885192c0ef5#64).getLsbD (i - 3)
  | .simon64_128, i => (0xfc2ce51207a635db#64).getLsbD (i - 4)
  | .simon128_128, i => if i < 66 then (0x7369f885192c0ef5#64).getLsbD (i - 2) else i = 66
  | .simon128_192, i => if i < 67 then (0xfc2ce51207a635db#64).getLsbD (i - 3) else i = 68
  | .simon128_256, i => if i < 68 then (0xfdc94c3a046d678b#64).getLsbD (i - 4) else i = 69

/-! ## Secrets -/

/-- Two states that differ at most in the key buffer and the round keys, the secrets of R28 and R68. -/
def SameButSecrets (s t : State) : Prop := t = { s with key := t.key, rk := t.rk }

end Sys2Proof.Machine
end

