-- ==== Sys2Proof/Certificates/Slice0/Obligations.lean ====
section
/-! DEFINITION. The statements for the provers. Each docstring names the rules of spec/ it formalises. -/

open Sys2Proof Sys2Proof.Machine

/-! ## Encoding -/

/-- Decoding the encoding of a well-formed command gives it back, every operand at every value (R87, R89). -/
def Obligations.DecodeOfEncodeIsTheCommand : Prop :=
  ∀ i : Instr, i.wellFormed = true → decode (encode i) = .ok i

/-- Each word that decodes has one reading: the command is well-formed and encodes to that very word (R84, R87, R89). -/
def Obligations.EncodeOfDecodeIsTheWord : Prop :=
  ∀ (v : Word) (i : Instr), decode v = .ok i → i.wellFormed = true ∧ encode i = v

/-- R86: a word decodes to a command exactly when it matches the command's mask and match; the free fields are W and IMM6
as the table says; no two rows match one word; a KEYSETUP with an unaccepted length is legal and fails with KEYLEN. -/
def Obligations.CommandsMatchMaskAndMatch : Prop :=
  (∀ v : Word,
    (v &&& 0xFFFFFFFF = 0x00000000 ↔ decode v = .ok .nop) ∧
    (v &&& 0xFFC0FEFF = 0x00000001 ↔ ∃ w len, decode v = .ok (.keysetup w len)) ∧
    (v &&& 0xFFFFFFFF = 0x00000002 ↔ decode v = .ok .encrypt) ∧
    (v &&& 0xFFFFFFFF = 0x00000003 ↔ decode v = .ok .decrypt) ∧
    (v &&& 0xFFC0FEFF = 0x00000004 ↔ ∃ w k, decode v = .ok (.roli w k)) ∧
    (v &&& 0xFFC0FEFF = 0x00000005 ↔ ∃ w k, decode v = .ok (.rori w k)) ∧
    (v &&& 0xFFFFFEFF = 0x00000006 ↔ ∃ w, decode v = .ok (.rolv w)) ∧
    (v &&& 0xFFFFFEFF = 0x00000007 ↔ ∃ w, decode v = .ok (.rorv w)) ∧
    (v &&& 0xFFFFFEFF = 0x00000008 ↔ ∃ w, decode v = .ok (.fmix w)) ∧
    (v &&& 0xFFFFFFFF = 0x00000009 ↔ decode v = .ok .zeroize)) ∧
  (∀ (v : Word) (w : Width) (n : Nat),
    decode v = .ok (.keysetup w n) ∨ decode v = .ok (.roli w n) ∨ decode v = .ok (.rori w n) →
      n = (v.toNat / 2 ^ 16) % 64 ∧ (w = .w64 ↔ v.getLsbD 8 = true)) ∧
  (∀ (v : Word) (w : Width),
    decode v = .ok (.rolv w) ∨ decode v = .ok (.rorv w) ∨ decode v = .ok (.fmix w) → (w = .w64 ↔ v.getLsbD 8 = true)) ∧
  List.Pairwise (fun a b : Word × Word => ∀ v : Word, ¬ (v &&& a.1 = a.2 ∧ v &&& b.1 = b.2))
    [(0xFFFFFFFF, 0x00000000), (0xFFC0FEFF, 0x00000001), (0xFFFFFFFF, 0x00000002), (0xFFFFFFFF, 0x00000003),
     (0xFFC0FEFF, 0x00000004), (0xFFC0FEFF, 0x00000005), (0xFFFFFEFF, 0x00000006), (0xFFFFFEFF, 0x00000007),
     (0xFFFFFEFF, 0x00000008), (0xFFFFFFFF, 0x00000009)] ∧
  (∀ (v : Word) (w : Width) (len : Nat) (s : State),
    v &&& 0xFFC0FEFF = 0x00000001 → decode v = .ok (.keysetup w len) → selectVariant w len = none →
      ∃ t, complete v s = .next t ∧ t.err = 2)

/-- R212: which words are illegal, and that an accepted illegal word completes with ERR = 1 and changes STATUS alone. -/
def Obligations.IllegalWordsCompleteWithIllegal : Prop :=
  ∀ v : Word,
    ((∃ r, decode v = .error r) ↔
      10 ≤ v.toNat % 16 ∨
      v.extractLsb' 4 4 ≠ 0 ∨ v.extractLsb' 9 7 ≠ 0 ∨ v.extractLsb' 22 10 ≠ 0 ∨
      (v.getLsbD 8 = true ∧ v.toNat % 16 ∈ [0x0, 0x2, 0x3, 0x9]) ∨
      (v.extractLsb' 16 6 ≠ 0 ∧ v.toNat % 16 ∈ [0x0, 0x2, 0x3, 0x6, 0x7, 0x8, 0x9])) ∧
    ∀ s : State, (∃ r, decode v = .error r) →
      ∃ t, complete v s = .next t ∧ Committed 1 s t ∧ SameInputs s t ∧ t.dout = s.dout

/-- Words written out from the encodings of R89 and the decode table of 95_test_vectors.md section 2.1. -/
def Obligations.WrittenOutWordsDecode : Prop :=
  decode 0x00000000 = .ok .nop ∧
  decode 0x000C0001 = .ok (.keysetup .w32 12) ∧
  decode 0x00200101 = .ok (.keysetup .w64 32) ∧
  decode 0x00140001 = .ok (.keysetup .w32 20) ∧
  decode 0x00000002 = .ok .encrypt ∧
  decode 0x00000003 = .ok .decrypt ∧
  decode 0x003F0104 = .ok (.roli .w64 63) ∧
  decode 0x00080105 = .ok (.rori .w64 8) ∧
  decode 0x00000106 = .ok (.rolv .w64) ∧
  decode 0x00000007 = .ok (.rorv .w32) ∧
  decode 0x00000008 = .ok (.fmix .w32) ∧
  decode 0x00000009 = .ok .zeroize ∧
  (∀ v ∈ [0x00000010, 0x00000100, 0x00010000, 0x0000000A, 0x0000000F, 0x00010006, 0x80000002, 0x00400004, 0x00000202,
          0x00000109, 0x00010009], ∃ r, decode v = .error r)

/-- The assembler and the encoder agree: each well-formed command has one line, whose text assembles to the command's word,
and each accepted line is that of one well-formed command (R89; where spaces may stand is log 15). -/
def Obligations.AssemblerLinesAreTheCommands : Prop :=
  (∀ i : Instr, i.wellFormed = true →
    assemble (lineOf i) = some i ∧ assembleText (lineOf i).text = some (encode i)) ∧
  (∀ (l : AsmLine) (i : Instr), assemble l = some i → i.wellFormed = true ∧ lineOf i = l)

/-! ## Word primitives -/

/-- R100: ROL as the spec computes it, and the place each bit comes from. -/
def Obligations.RotateLeftMovesEveryBit : Prop :=
  ∀ (w : Width) (v : BitVec w.bits) (k : Nat), k < w.bits →
    (k ≠ 0 → (rol v k).toNat = ((v.toNat <<< k) ||| (v.toNat >>> (w.bits - k))) &&& (2 ^ w.bits - 1)) ∧
    rol v 0 = v ∧
    ∀ i < w.bits, (rol v k).getLsbD i = v.getLsbD ((i + w.bits - k) % w.bits)

/-- R101: ROR as the spec computes it, the place each bit comes from, and ROR as a left rotation. -/
def Obligations.RotateRightMovesEveryBit : Prop :=
  ∀ (w : Width) (v : BitVec w.bits) (k : Nat), k < w.bits →
    (k ≠ 0 → (ror v k).toNat = ((v.toNat >>> k) ||| (v.toNat <<< (w.bits - k))) &&& (2 ^ w.bits - 1)) ∧
    ror v 0 = v ∧
    (∀ i < w.bits, (ror v k).getLsbD i = v.getLsbD ((i + k) % w.bits)) ∧
    ror v k = rol v ((w.bits - k) % w.bits)

/-- R102: the rotator uses a[4:0] at w = 32 and a[5:0] at w = 64, the amount being IMM6 or ROTAMT; 0 and w leave the word;
40 at w = 32 is 8; the cipher's constants are not reduced. -/
def Obligations.RotationAmountsReduceModuloTheWidth : Prop :=
  (∀ (w : Width) (a : BitVec 6), reduceAmount w a.toNat = a.toNat % w.bits) ∧
  (∀ a : BitVec 6, reduceAmount .w32 a.toNat = (a.extractLsb' 0 5).toNat) ∧
  (∀ a : BitVec 6, reduceAmount .w64 a.toNat = a.toNat) ∧
  (∀ (w : Width) (s : State) (a : Nat), a = 0 ∨ a = w.bits →
    ∃ t u, exec (.roli w a) s = .next t ∧ exec (.rori w a) s = .next u ∧
      xOperand w t.dout = xOperand w s.din ∧ xOperand w u.dout = xOperand w s.din) ∧
  (∀ s : State, exec (.roli .w32 40) s = exec (.roli .w32 8) s ∧ exec (.rori .w32 40) s = exec (.rori .w32 8) s) ∧
  (∀ (w : Width) (s : State),
    exec (.rolv w) s = exec (.roli w s.rotamt.toNat) s ∧ exec (.rorv w) s = exec (.rori w s.rotamt.toNat) s) ∧
  (∀ (w : Width) (a : Nat), a ∈ [1, 2, 3, 4, 8] → reduceAmount w a = a)

/-- R103: every bit of f, and its corner cases. -/
def Obligations.MixOfEveryBit : Prop :=
  (∀ (w : Width) (v : BitVec w.bits),
    mix v = (rol v 1 &&& rol v 8) ^^^ rol v 2 ∧
    (∀ i < w.bits, (mix v).getLsbD i =
      ((v.getLsbD ((i + w.bits - 1) % w.bits) && v.getLsbD ((i + w.bits - 8) % w.bits)) ^^
        v.getLsbD ((i + w.bits - 2) % w.bits)))) ∧
  (∀ w : Width, mix (0 : BitVec w.bits) = 0 ∧ mix (BitVec.allOnes w.bits) = 0) ∧
  mix (1 : BitVec 32) = 0x00000004 ∧ mix (0x80000000 : BitVec 32) = 0x00000002

/-- R161: the engine is the fold of single rounds over k[0], …, k[R-1]; two rounds are the paired step; the odd tail with
its swap is one round. -/
def Obligations.EncryptionIsTheFoldOfRounds : Prop :=
  ∀ (w : Width) (k : Nat → BitVec w.bits) (b : Block w.bits),
    (∀ rounds, encryptBlock rounds k b = (List.range rounds).foldl (fun c i => roundOnce c (k i)) b) ∧
    (∀ p q, roundOnce (roundOnce b p) q = pairStep b.1 b.2 p q) ∧
    (∀ p, Prod.swap (b.1, b.2 ^^^ mix b.1 ^^^ p) = roundOnce b p)

/-- R163: under the schedule of any key, decryption inverts encryption and encryption decryption; decryption is the fold
of inverse rounds over k[R-1], …, k[0]. -/
def Obligations.DecryptionInvertsEncryption : Prop :=
  ∀ (V : Variant) (key : Vector Word 8) (P : Block V.width.bits),
    let k := fun i => (roundKeys V key).getD i 0
    decryptBlock V.rounds k (encryptBlock V.rounds k P) = P ∧
    encryptBlock V.rounds k (decryptBlock V.rounds k P) = P ∧
    decryptBlock V.rounds k P = (List.range V.rounds).reverse.foldl (fun c i => invRound c (k i)) P ∧
    ∀ q, invRound (roundOnce P q) q = P ∧ roundOnce (invRound P q) q = P

/-! ## Operands and results -/

/-- R58: the user-key words are the big-endian words of KB[0..L), in register terms KEYi or KEY(2i) : KEY(2i+1). -/
def Obligations.UserKeyWordsAreBigEndian : Prop :=
  ∀ (V : Variant) (key : Vector Word 8),
    (userKey V key).length = V.keyWords ∧
    V.keyBytes = V.keyWords * (V.width.bits / 8) ∧
    (∀ i < V.keyWords, ((userKey V key).getD i 0).toNat =
      bigEndian (((registerBytes key.toList).drop (V.width.bits / 8 * i)).take (V.width.bits / 8))) ∧
    (∀ i : Fin 4, userKeyWord .w32 key i = key[i.val]) ∧
    (∀ i : Fin 4, userKeyWord .w64 key i = key[2 * i.val] ++ key[2 * i.val + 1])

/-- The byte strings of the block registers: x and y are the big-endian words of IB, and a block result's bytes are those
of x' followed by those of y'; a word result stands alone; the rest is zero (R57, R59, R60). -/
def Obligations.BlockBytesAreBigEndian : Prop :=
  (∀ (w : Width) (din : Vector Word 4),
    (xOperand w din).toNat = bigEndian ((registerBytes din.toList).take (w.bits / 8)) ∧
    (yOperand w din).toNat = bigEndian (((registerBytes din.toList).drop (w.bits / 8)).take (w.bits / 8))) ∧
  (∀ (w : Width) (x y : BitVec w.bits),
    registerBytes (blockResult w (x, y)).toList =
      bigEndianBytes (w.bits / 8) x.toNat ++ bigEndianBytes (w.bits / 8) y.toNat ++ List.replicate (16 - w.bits / 4) 0) ∧
  (∀ (w : Width) (r : BitVec w.bits),
    registerBytes (wordResult w r).toList =
      bigEndianBytes (w.bits / 8) r.toNat ++ List.replicate (16 - w.bits / 8) 0)

/-! ## Key schedule -/

/-- R133: a schedule has R words, and the first m are the user-key words in reverse order. -/
def Obligations.ScheduleSeedIsTheKeyReversed : Prop :=
  ∀ (V : Variant) (uk : List (BitVec V.width.bits)), uk.length = V.keyWords →
    (expand V uk).length = V.rounds ∧
    ∀ i < V.keyWords, (expand V uk)[i]? = uk[V.keyWords - 1 - i]?

/-- R134 to R137: every derived word is c, the index's bit term, k[i-m] and the recurrence's tmp; the bit terms are
written out in `bitTerm`. -/
def Obligations.DerivedKeysFollowTheRecurrence : Prop :=
  ∀ (V : Variant) (uk : List (BitVec V.width.bits)), uk.length = V.keyWords →
    let k := fun i => (expand V uk).getD i 0
    ∀ i, V.keyWords ≤ i → i < V.rounds →
      k i = ~~~3#V.width.bits ^^^ BitVec.ofNat V.width.bits (bitTerm V i).toNat ^^^ k (i - V.keyWords) ^^^
        (if V.keyWords = 4 then ror (k (i - 1)) 3 ^^^ k (i - 3) ^^^ ror (k (i - 1)) 4 ^^^ ror (k (i - 3)) 1
         else ror (k (i - 1)) 3 ^^^ ror (k (i - 1)) 4)

/-- R139: the n-th derived word's bit term is bit n mod 62 of the variant's constant. -/
def Obligations.BitTermsHavePeriodSixtyTwo : Prop :=
  (∀ (V : Variant) (uk : List (BitVec V.width.bits)), uk.length = V.keyWords →
    let k := fun i => (expand V uk).getD i 0
    ∀ n, n + V.keyWords < V.rounds →
      k (n + V.keyWords) ^^^ ~~~3#V.width.bits ^^^ k n ^^^
        (if V.keyWords = 4 then
          ror (k (n + 3)) 3 ^^^ k (n + 1) ^^^ ror (k (n + 3)) 4 ^^^ ror (k (n + 1)) 1
         else ror (k (n + V.keyWords - 1)) 3 ^^^ ror (k (n + V.keyWords - 1)) 4) =
      BitVec.ofNat V.width.bits (V.z.getLsbD (n % 62)).toNat) ∧
  (∀ V : Variant, V.z.getLsbD 62 = V.z.getLsbD 0 ∧ V.z.getLsbD 63 = V.z.getLsbD 1 ∧
    ∀ j < V.tail.length, V.tail[j]? = some (BitVec.ofBool (V.z.getLsbD (2 + j))))

/-- Complementing every user-key word complements every round key (95_test_vectors.md section 2.4.3). -/
def Obligations.ComplementedKeyComplementsTheSchedule : Prop :=
  ∀ (V : Variant) (uk : List (BitVec V.width.bits)), uk.length = V.keyWords →
    expand V (uk.map fun k => ~~~k) = (expand V uk).map fun k => ~~~k

/-- R130: the variant KEYSETUP selects from W and L, with its w, m and R; every other pair fails with KEYLEN. -/
def Obligations.KeysetupSelectsTheVariant : Prop :=
  (∀ (w : Width) (len : Nat) (s : State), ∃ t, exec (.keysetup w len) s = .next t ∧
    (w = .w32 ∧ len = 12 → t.err = 0 ∧ t.variant = some .simon64_96) ∧
    (w = .w32 ∧ len = 16 → t.err = 0 ∧ t.variant = some .simon64_128) ∧
    (w = .w64 ∧ len = 16 → t.err = 0 ∧ t.variant = some .simon128_128) ∧
    (w = .w64 ∧ len = 24 → t.err = 0 ∧ t.variant = some .simon128_192) ∧
    (w = .w64 ∧ len = 32 → t.err = 0 ∧ t.variant = some .simon128_256) ∧
    (¬ (w = .w32 ∧ (len = 12 ∨ len = 16)) → ¬ (w = .w64 ∧ (len = 16 ∨ len = 24 ∨ len = 32)) →
      t.err = 2 ∧ t.variant = s.variant)) ∧
  ([Variant.simon64_96, .simon64_128, .simon128_128, .simon128_192, .simon128_256].map
    fun V => (V.width, V.keyWords, V.rounds, V.keyBytes)) =
    [(.w32, 3, 42, 12), (.w32, 4, 44, 16), (.w64, 2, 68, 16), (.w64, 3, 69, 24), (.w64, 4, 72, 32)]

/-- A KEYSETUP that selects a variant completes: the RAM holds the zero-extended schedule of the key buffer and zeros
beyond, KEYED, BS and ROUNDS follow, and nothing else changes but STATUS (R31, R140). -/
def Obligations.KeysetupLoadsTheSchedule : Prop :=
  ∀ (w : Width) (len : Nat) (V : Variant) (s : State), selectVariant w len = some V →
    ∃ t, exec (.keysetup w len) s = .next t ∧ Committed 0 s t ∧
      t.variant = some V ∧ t.keyed = true ∧ t.bs = decide (w = .w64) ∧ t.roundCount = V.rounds ∧
      (∀ i : Fin 72, t.rk[i] =
        if i.val < V.rounds then ((expand V (userKey V s.key)).getD i.val 0).setWidth 64 else 0) ∧
      t.key = s.key ∧ t.din = s.din ∧ t.dout = s.dout

/-- R213: a KEYSETUP outside the table of R130 completes with ERR = 2 and keeps the schedule and all else but STATUS. -/
def Obligations.FailedKeysetupKeepsTheSchedule : Prop :=
  ∀ (w : Width) (len : Nat) (s : State),
    (w = .w32 → len ≠ 12 ∧ len ≠ 16) → (w = .w64 → len ≠ 16 ∧ len ≠ 24 ∧ len ≠ 32) →
    ∃ t, exec (.keysetup w len) s = .next t ∧ Committed 2 s t ∧ SameInputs s t ∧ t.dout = s.dout

/-- R142: the schedule is a function of the variant and KB[0..L) alone, and has exactly R elements. -/
def Obligations.ScheduleDependsOnTheKeyBytesAlone : Prop :=
  ∀ (w : Width) (len : Nat) (V : Variant) (s s' : State), selectVariant w len = some V →
    (registerBytes s.key.toList).take len = (registerBytes s'.key.toList).take len →
    ∃ t t', exec (.keysetup w len) s = .next t ∧ exec (.keysetup w len) s' = .next t' ∧
      t.rk = t'.rk ∧ t.variant = t'.variant ∧ (roundKeys V s.key).length = V.rounds

/-! ## Block commands -/

/-- ENCRYPT with a schedule loaded completes: DOUT holds the R-fold round of the DIN block under the RAM's keys, the
unused DOUT words are 0, and nothing else changes but STATUS (R60, R161, R164). -/
def Obligations.EncryptCompletes : Prop :=
  ∀ (s : State) (V : Variant), s.variant = some V →
    ∃ t, exec .encrypt s = .next t ∧ Committed 0 s t ∧ SameInputs s t ∧
      blockOperand V.width t.dout =
        (List.range V.rounds).foldl (fun c i => roundOnce c (((s.rk[i]?).getD 0).setWidth V.width.bits))
          (blockOperand V.width s.din) ∧
      (V.width = .w32 → t.dout[2] = 0 ∧ t.dout[3] = 0)

/-- DECRYPT with a schedule loaded completes: DOUT holds the inverse rounds of the DIN block, k[R-1] first (R163, R165). -/
def Obligations.DecryptCompletes : Prop :=
  ∀ (s : State) (V : Variant), s.variant = some V →
    ∃ t, exec .decrypt s = .next t ∧ Committed 0 s t ∧ SameInputs s t ∧
      blockOperand V.width t.dout =
        (List.range V.rounds).reverse.foldl (fun c i => invRound c (((s.rk[i]?).getD 0).setWidth V.width.bits))
          (blockOperand V.width s.din) ∧
      (V.width = .w32 → t.dout[2] = 0 ∧ t.dout[3] = 0)

/-- R214: without a schedule ENCRYPT and DECRYPT complete with ERR = 3 and change STATUS alone. -/
def Obligations.BlockCommandsWithoutKeyAnswerNokey : Prop :=
  ∀ s : State, s.variant = none → ∀ i ∈ [Instr.encrypt, .decrypt],
    ∃ t, exec i s = .next t ∧ Committed 3 s t ∧ SameInputs s t ∧ t.dout = s.dout

/-- A host that encrypts a block, copies DOUT to DIN and decrypts, reads the block again in DOUT, and the other way round
(R163 to R165, P-1 of 95_test_vectors.md). -/
def Obligations.EncryptThenDecryptRestoresTheBlock : Prop :=
  ∀ (s : State) (V : Variant), s.variant = some V →
    (∃ t u, exec .encrypt s = .next t ∧ exec .decrypt { t with din := t.dout } = .next u ∧
      u.err = 0 ∧ blockOperand V.width u.dout = blockOperand V.width s.din) ∧
    (∃ t u, exec .decrypt s = .next t ∧ exec .encrypt { t with din := t.dout } = .next u ∧
      u.err = 0 ∧ blockOperand V.width u.dout = blockOperand V.width s.din)

/-- The five known-answer vectors of the source, key bytes to ciphertext (95_test_vectors.md section 1.1). -/
def Obligations.PublishedVectorsReproduce : Prop :=
  let cipher := fun (V : Variant) (key : Vector Word 8) (din : Vector Word 4) =>
    blockResult V.width (encryptBlock V.rounds (ramKey (scheduleRam V key)) (blockOperand V.width din))
  cipher .simon64_96 #v[0x13121110, 0x0b0a0908, 0x03020100, 0, 0, 0, 0, 0] #v[0x6f722067, 0x6e696c63, 0, 0] =
    #v[0x5ca2e27f, 0x111a8fc8, 0, 0] ∧
  cipher .simon64_128 #v[0x1b1a1918, 0x13121110, 0x0b0a0908, 0x03020100, 0, 0, 0, 0]
    #v[0x656b696c, 0x20646e75, 0, 0] = #v[0x44c8fc20, 0xb9dfa07a, 0, 0] ∧
  cipher .simon128_128 #v[0x0f0e0d0c, 0x0b0a0908, 0x07060504, 0x03020100, 0, 0, 0, 0]
    #v[0x63736564, 0x20737265, 0x6c6c6576, 0x61727420] = #v[0x49681b1e, 0x1e54fe3f, 0x65aa832a, 0xf84e0bbc] ∧
  cipher .simon128_192 #v[0x17161514, 0x13121110, 0x0f0e0d0c, 0x0b0a0908, 0x07060504, 0x03020100, 0, 0]
    #v[0x20657265, 0x6874206e, 0x65687720, 0x65626972] = #v[0xc4ac61ef, 0xfcdc0d4f, 0x6c9c8d6e, 0x2597b85b] ∧
  cipher .simon128_256
    #v[0x1f1e1d1c, 0x1b1a1918, 0x17161514, 0x13121110, 0x0f0e0d0c, 0x0b0a0908, 0x07060504, 0x03020100]
    #v[0x74206e69, 0x206d6f6f, 0x6d697320, 0x61207369] = #v[0x8d2b5579, 0xafc8a3a0, 0x3bf72a87, 0xefe7b868]

/-! ## Rotator commands -/

/-- ROLI and RORI complete on every state and amount: each bit of the result, the zero fill of DOUT, and that only DOUT
and STATUS change (R100 to R102, R105 to R107). -/
def Obligations.ConstantRotationsComplete : Prop :=
  ∀ (w : Width) (k : Nat) (s : State),
    (∃ t, exec (.roli w k) s = .next t ∧ Committed 0 s t ∧ SameInputs s t ∧
      (∀ i < w.bits, (xOperand w t.dout).getLsbD i = (xOperand w s.din).getLsbD ((i + w.bits - k % w.bits) % w.bits)) ∧
      (w = .w32 → t.dout[1] = 0) ∧ t.dout[2] = 0 ∧ t.dout[3] = 0) ∧
    (∃ t, exec (.rori w k) s = .next t ∧ Committed 0 s t ∧ SameInputs s t ∧
      (∀ i < w.bits, (xOperand w t.dout).getLsbD i = (xOperand w s.din).getLsbD ((i + k) % w.bits)) ∧
      (w = .w32 → t.dout[1] = 0) ∧ t.dout[2] = 0 ∧ t.dout[3] = 0)

/-- ROLV and RORV complete on every state, the amount being ROTAMT modulo w (R102, R105, R108, R109). -/
def Obligations.VariableRotationsComplete : Prop :=
  ∀ (w : Width) (s : State),
    (∃ t, exec (.rolv w) s = .next t ∧ Committed 0 s t ∧ SameInputs s t ∧
      (∀ i < w.bits, (xOperand w t.dout).getLsbD i =
        (xOperand w s.din).getLsbD ((i + w.bits - s.rotamt.toNat % w.bits) % w.bits)) ∧
      (w = .w32 → t.dout[1] = 0) ∧ t.dout[2] = 0 ∧ t.dout[3] = 0) ∧
    (∃ t, exec (.rorv w) s = .next t ∧ Committed 0 s t ∧ SameInputs s t ∧
      (∀ i < w.bits, (xOperand w t.dout).getLsbD i = (xOperand w s.din).getLsbD ((i + s.rotamt.toNat) % w.bits)) ∧
      (w = .w32 → t.dout[1] = 0) ∧ t.dout[2] = 0 ∧ t.dout[3] = 0)

/-- FMIX completes on every state: each bit of f of the operand (R103, R105, R110). -/
def Obligations.FmixCompletes : Prop :=
  ∀ (w : Width) (s : State),
    ∃ t, exec (.fmix w) s = .next t ∧ Committed 0 s t ∧ SameInputs s t ∧
      (let v := xOperand w s.din
       ∀ i < w.bits, (xOperand w t.dout).getLsbD i =
        ((v.getLsbD ((i + w.bits - 1) % w.bits) && v.getLsbD ((i + w.bits - 8) % w.bits)) ^^
          v.getLsbD ((i + w.bits - 2) % w.bits))) ∧
      (w = .w32 → t.dout[1] = 0) ∧ t.dout[2] = 0 ∧ t.dout[3] = 0

/-! ## Lifecycle -/

/-- NOP completes on every state and changes STATUS alone (R193). -/
def Obligations.NopCompletes : Prop :=
  ∀ s : State, ∃ t, exec .nop s = .next t ∧ Committed 0 s t ∧ SameInputs s t ∧ t.dout = s.dout

/-- ZEROIZE completes on every state: every RAM entry, KEY, DIN and DOUT word is 0, no variant is loaded, KEYED, BS and
ROUNDS read 0, CFG, ROTAMT and OVR stay, and ENCRYPT and DECRYPT then fail with NOKEY (R194). -/
def Obligations.ZeroizeCompletes : Prop :=
  ∀ s : State, ∃ t, exec .zeroize s = .next t ∧ Committed 0 s t ∧
    t.variant = none ∧ t.keyed = false ∧ t.bs = false ∧ t.roundCount = 0 ∧
    (∀ i : Fin 72, t.rk[i] = 0) ∧ (∀ j : Fin 8, t.key[j] = 0) ∧ (∀ j : Fin 4, t.din[j] = 0 ∧ t.dout[j] = 0) ∧
    ∀ i ∈ [Instr.encrypt, .decrypt], ∃ u, exec i t = .next u ∧ u.err = 3

/-- A host step that writes CMD (R190; the event list is log 1): the write is dropped with OVR while busy, else taken whole,
undecoded, with DONE and ERR cleared. -/
def Obligations.CmdWriteIsAcceptedOrDropped : Prop :=
  ∀ (s : State) (v : Word) (es : List Event), s.events = .bus (writeAccess 0x0C v) :: es →
    ∃ t, step s = .next t ∧
      (s.pending ≠ none → t = { s with ovr := true, rsp := t.rsp, events := es }) ∧
      (s.pending = none →
        t = { s with pending := some v, done := false, err := 0, rsp := t.rsp, events := es })

/-- A host step performs the access at the head of the event list, on the state before it, and puts the response on the
port (R50, R63; the list and the port are the model's own fields, log 1, log 3). -/
def Obligations.HostStepPerformsOneAccess : Prop :=
  ∀ (s : State) (a : Access) (es : List Event), s.events = .bus a :: es →
    step s = .next { s.afterAccess a with rsp := some (s.respond a), events := es }

/-- A step runs the decoded command: when the core moves next and its slot holds a word that decodes to `i`, the step is
`exec i` on the state whose core event is taken; an idle core keeps its state; a placed word is run (R191, R227; the event list
and the placing are the model's, log 1, log 2, log 9). -/
def Obligations.StepRunsTheDecodedCommand : Prop :=
  (∀ (s : State) (v : Word) (i : Instr), s.pending = some v → decode v = .ok i → s.coreNext →
    step s = exec i (s.setEvents s.events.tail)) ∧
  (∀ s : State, s.pending = none → s.coreNext → step s = .next (s.setEvents s.events.tail)) ∧
  (∀ (s : State) (nbits w : Nat) (i : Instr), decodeTableWord nbits w = some i →
    step (s.withFetchWord nbits w) =
      exec i { s with pending := some (tableWord nbits w), done := false, err := 0 })

/-- Every completion ends with BUSY clear, DONE set and one of the four codes; OVR, CFG, ROTAMT and the ports are not the
completion's (R191, R211, R218; whose turn it is stands in the event list, log 1). -/
def Obligations.EveryCompletionCommits : Prop :=
  ∀ (s : State) (v : Word), s.pending = some v → s.coreNext →
    ∃ t, step s = .next t ∧
      ((∃ r, decode v = .error r) ∧ Committed 1 (s.setEvents s.events.tail) t ∨
       ∃ i, decode v = .ok i ∧
        (Committed 0 (s.setEvents s.events.tail) t ∨
         (∃ w len, i = .keysetup w len) ∧ Committed 2 (s.setEvents s.events.tail) t ∨
         (i = .encrypt ∨ i = .decrypt) ∧ Committed 3 (s.setEvents s.events.tail) t))

/-- R192: an illegal word, a KEYSETUP that selects no variant and a block command without a schedule complete with their
code in ERR, the slot empty and DONE set, and change nothing else; every completion that records a code is one of these. -/
def Obligations.ErrorCommitChangesStatusAlone : Prop :=
  ∀ (s : State) (v : Word),
    let raises := fun code : BitVec 4 =>
      (code = 1 ∧ ∃ r, decode v = .error r) ∨
      (code = 2 ∧ ∃ w len, decode v = .ok (.keysetup w len) ∧ selectVariant w len = none) ∨
      (code = 3 ∧ (decode v = .ok .encrypt ∨ decode v = .ok .decrypt) ∧ s.variant = none)
    (∀ code, raises code → complete v s = .next { s with err := code, pending := none, done := true }) ∧
    (∀ t, complete v s = .next t → t.err ≠ 0 → raises t.err)

/-- Whatever the host does between acceptance and completion, the command keeps its word and sees the operands of its
acceptance, and its completion has the result it would have had at once (R62, R244, R249). -/
def Obligations.OperandsStayFixedWhileBusy : Prop :=
  ∀ (as : List Access) (s : State) (v : Word), s.pending = some v →
    (s.busAccesses as).pending = some v ∧
    SameInputs s (s.busAccesses as) ∧ (s.busAccesses as).rotamt = s.rotamt ∧ (s.busAccesses as).dout = s.dout ∧
    (s.done = false → (s.busAccesses as).done = false) ∧
    ∃ t u, complete v s = .next t ∧ complete v (s.busAccesses as) = .next u ∧
      SameInputs t u ∧ u.dout = t.dout ∧ u.err = t.err ∧ u.done = t.done ∧ u.pending = t.pending

/-- A host that runs a command (`cmd C`, then `wait` with any number of polls that see BUSY) from an idle core ends with
the command's completion on the state of its acceptance, and reads STATUS with BUSY = 0 and DONE = 1 (R64, R90, R190, R191;
the event list is log 1, the unrolled wait log 14). -/
def Obligations.RunCompletesTheCommand : Prop :=
  ∀ (s : State) (i : Instr) (polls : Nat) (es : List Event),
    i.wellFormed = true → s.pending = none → s.events = runEvents i polls ++ es →
    ∃ t, exec i { s with pending := some (encode i), done := false, err := 0 } = .next t ∧
      Sys2Proof.core.run (polls + 3) s =
        .next { t with rsp := some ⟨false, some t.statusWord⟩, events := es } ∧
      t.statusWord.getLsbD 0 = false ∧ t.statusWord.getLsbD 1 = true

/-- A host statement that accesses the bus does to the core what a step with that access at the head of the event list does,
and one that accesses no bus leaves the core alone; the pseudo-instructions are made of the accesses R90 gives them (the
host's own state is log 14, the event list log 1). -/
def Obligations.HostStatementsActThroughTheBus : Prop :=
  (∀ (ops : List HostOp) (h : HostState) (s : State) (o : HostOp), ops[h.pc]? = some o →
    (∀ a, h.access o = some a →
      ∃ u, hostTurn ops h s = some (h.receive (s.respond a) o, u) ∧
        ∀ es, step (s.setEvents (.bus a :: es)) = .next (u.setEvents es)) ∧
    (h.access o = none → ∀ h' u, hostTurn ops h s = some (h', u) → u = s)) ∧
  (∀ i : Instr, (HostStmt.cmd i).ops = (HostStmt.wr 0x0C (.lit (encode i))).ops ∧
    (HostStmt.run i).ops = (HostStmt.cmd i).ops ++ HostStmt.wait.ops) ∧
  HostStmt.ack.ops = (HostStmt.wr 0x08 (.lit 0x00000002)).ops

/-- A `wait` ends after the command's completion: while the core takes no turn the host stays at it, whatever the number of
its reads of STATUS, and the turn after the completion ends it (R64, R90). That one turn is R90's read and its branch, and
that the value read goes to no variable of the host, is the model's choice (log 14). -/
def Obligations.WaitEndsAfterTheCompletion : Prop :=
  ∀ (ops : List HostOp) (h : HostState) (s : State) (v : Word),
    ops[h.pc]? = some .poll → s.pending = some v →
    (∀ polls : Nat, ∃ u, runSystem ops (List.replicate polls true) (h, s) = some (h, u) ∧ u.pending = some v) ∧
    (∃ t u, coreTurn s = .next t ∧ hostTurn ops h t = some (h.advance, u) ∧ u = { t with rsp := u.rsp })

/-- A pending command completes or is abandoned within the events that remain, plus one step of the core, whatever the
host presents (R191, R241, R249; that the core moves when no event is left is the model's fairness, log 2). -/
def Obligations.PendingCommandComesToAnEnd : Prop :=
  ∀ (s : State) (v : Word), s.pending = some v → (∀ e ∈ s.events, e.lawful = true) →
    ∃ n ≤ s.events.length + 1, ∃ t, Sys2Proof.core.run n s = .next t ∧ t.pending = none

/-! ## The register window -/

/-- R53: an access of another size or at an unaligned offset gets an error response, reads 0 and changes nothing; an
access of 4 bytes at a multiple of 4 gets none. -/
def Obligations.IllegalAccessGetsABusError : Prop :=
  ∀ (s : State) (a : Access),
    ((s.respond a).err = true ↔ a.size ≠ 4 ∨ a.off.toNat % 4 ≠ 0) ∧
    ((s.respond a).err = true → s.afterAccess a = s ∧ (a.we = false → (s.respond a).rdata = some 0))

/-- R54: a legal access to a reserved offset reads 0 and ignores the write, without an error and without an effect. -/
def Obligations.ReservedOffsetsReadZeroAndIgnoreWrites : Prop :=
  ∀ (s : State) (off : BitVec 8) (v : Word), off.toNat % 4 = 0 → (off = 0x1C ∨ 0x60 ≤ off.toNat) →
    (s.respond (readAccess off)).err = false ∧ (s.respond (readAccess off)).rdata = some 0 ∧
    s.afterAccess (readAccess off) = s ∧
    (s.respond (writeAccess off v)).err = false ∧ s.afterAccess (writeAccess off v) = s

/-- R55: what a legal read returns, at every offset, idle and busy; no read has an effect; no access changes DOUT. -/
def Obligations.ReadsReturnTheRegister : Prop :=
  ∀ s : State,
    let rd := fun off => (s.respond (readAccess off)).rdata
    rd 0x00 = some 0x53494D4E ∧
    rd 0x04 = some (if s.cfgIe then 1 else 0) ∧
    (rd 0x08).map BitVec.toNat = some
      (s.bs.toNat * 256 + s.err.toNat * 16 + s.variant.isSome.toNat * 8 + s.ovr.toNat * 4 + s.done.toNat * 2 +
        s.pending.isSome.toNat) ∧
    (s.bs = true ↔
      s.variant = some .simon128_128 ∨ s.variant = some .simon128_192 ∨ s.variant = some .simon128_256) ∧
    rd 0x0C = some 0 ∧
    (rd 0x10).map BitVec.toNat = some s.rotamt.toNat ∧
    (rd 0x14).map BitVec.toNat = some (match s.variant with | none => 0 | some V => V.rounds) ∧
    rd 0x18 = some 0x0000001F ∧
    (∀ j : Fin 8, rd (BitVec.ofNat 8 (0x20 + 4 * j.val)) = some 0) ∧
    (∀ j : Fin 4, rd (BitVec.ofNat 8 (0x40 + 4 * j.val)) = some s.din[j]) ∧
    (∀ j : Fin 4, rd (BitVec.ofNat 8 (0x50 + 4 * j.val)) = some s.dout[j]) ∧
    (∀ off : BitVec 8, off.toNat % 4 = 0 → (off = 0x1C ∨ 0x60 ≤ off.toNat) → rd off = some 0) ∧
    (∀ a : Access, a.we = false → s.afterAccess a = s) ∧
    (∀ a : Access, (s.afterAccess a).dout = s.dout) ∧
    (∀ off : BitVec 8, off.toNat % 4 = 0 → (s.respond (readAccess off)).err = false)

/-- R56: what a legal write does, at every offset, idle and busy; the repeated write; the CMD write that is not idempotent. -/
def Obligations.WritesTakeEffectOrAreDropped : Prop :=
  (∀ (s : State) (v : Word),
    let wr := fun off => s.afterAccess (writeAccess off v)
    let dropped := { s with ovr := true }
    wr 0x04 = { s with cfgIe := v.getLsbD 0 } ∧
    wr 0x08 =
      { s with done := if v.getLsbD 1 then false else s.done, ovr := if v.getLsbD 2 then false else s.ovr } ∧
    wr 0x0C = (if s.pending = none then { s with pending := some v, done := false, err := 0 } else dropped) ∧
    wr 0x10 = (if s.pending = none then { s with rotamt := v.extractLsb' 0 6 } else dropped) ∧
    (∀ j : Fin 8, wr (BitVec.ofNat 8 (0x20 + 4 * j.val)) =
      if s.pending = none then { s with key := s.key.set j v } else dropped) ∧
    (∀ j : Fin 4, wr (BitVec.ofNat 8 (0x40 + 4 * j.val)) =
      if s.pending = none then { s with din := s.din.set j v } else dropped) ∧
    (∀ off : BitVec 8, off.toNat % 4 = 0 →
      (off ∈ [0x00, 0x14, 0x18, 0x1C, 0x50, 0x54, 0x58, 0x5C] ∨ 0x60 ≤ off.toNat) → wr off = s) ∧
    (∀ off ∈ [(0x04 : BitVec 8), 0x10, 0x20, 0x24, 0x28, 0x2C, 0x30, 0x34, 0x38, 0x3C, 0x40, 0x44, 0x48, 0x4C],
      (wr off).afterAccess (writeAccess off v) = wr off) ∧
    (∀ off : BitVec 8, off.toNat % 4 = 0 → (s.respond (writeAccess off v)).err = false)) ∧
  (∃ (s : State) (v : Word),
    (s.afterAccess (writeAccess 0x0C v)).afterAccess (writeAccess 0x0C v) ≠ s.afterAccess (writeAccess 0x0C v))

/-- R217: bus error before busy, busy before decoding, ILLEGAL before any operand check, KEYLEN and NOKEY last, and one
code a command. -/
def Obligations.ConditionsHaveTheirPriority : Prop :=
  (∀ (s : State) (a : Access), (a.size ≠ 4 ∨ a.off.toNat % 4 ≠ 0) →
    (s.respond a).err = true ∧ s.afterAccess a = s) ∧
  (∀ (s : State) (v : Word) (off : BitVec 8), s.pending ≠ none → off.toNat % 4 = 0 →
    (off = 0x0C ∨ off = 0x10 ∨ (0x20 ≤ off.toNat ∧ off.toNat < 0x50)) →
    s.afterAccess (writeAccess off v) = { s with ovr := true }) ∧
  (∀ (s : State) (v : Word) (r : Illegal), decode v = .error r → ∃ t, complete v s = .next t ∧ t.err = 1) ∧
  (∀ (s : State) (v : Word) (i : Instr), decode v = .ok i → ∃ t, complete v s = .next t ∧
    ((∃ w len, i = .keysetup w len ∧ selectVariant w len = none) → t.err = 2) ∧
    ((i = .encrypt ∨ i = .decrypt) → s.variant = none → t.err = 3) ∧
    (¬ (∃ w len, i = .keysetup w len ∧ selectVariant w len = none) →
      ¬ ((i = .encrypt ∨ i = .decrypt) ∧ s.variant = none) → t.err = 0))

/-- R22 and R36: ID and CAP are constants that ignore writes. -/
def Obligations.IdAndCapAreConstant : Prop :=
  ∀ (s : State) (v : Word), ∀ off ∈ [(0x00 : BitVec 8), 0x18],
    (s.respond (readAccess off)).rdata = some (if off = 0x00 then 0x53494D4E else 0x0000001F) ∧
    s.afterAccess (writeAccess off v) = s ∧
    (State.reset.respond (readAccess off)).rdata = (s.respond (readAccess off)).rdata

/-- R26: ROTAMT keeps bits 5:0 of an idle write, reads back zero-extended, is dropped while busy, is 0 at reset, is not
changed by ZEROIZE and is the amount of ROLV and RORV. -/
def Obligations.RotamtKeepsSixBits : Prop :=
  (∀ (s : State) (v : Word), s.pending = none →
    ((s.afterAccess (writeAccess 0x10 v)).respond (readAccess 0x10)).rdata = some (v &&& 0x3F) ∧
    (s.afterAccess (writeAccess 0x10 v)).rotamt.toNat = v.toNat % 64) ∧
  (∀ (s : State) (v : Word), s.pending ≠ none → s.afterAccess (writeAccess 0x10 v) = { s with ovr := true }) ∧
  State.reset.rotamt = 0 ∧
  (∀ s : State, ∃ t, exec .zeroize s = .next t ∧ t.rotamt = s.rotamt) ∧
  (∀ (w : Width) (s : State),
    exec (.rolv w) s = exec (.roli w s.rotamt.toNat) s ∧ exec (.rorv w) s = exec (.rori w s.rotamt.toNat) s)

/-- R27: ROUNDS reads R of the loaded variant or 0, with bits 31:7 zero, and ignores writes. -/
def Obligations.RoundsReadsTheLoadedVariant : Prop :=
  ∀ s : State,
    (s.respond (readAccess 0x14)).rdata = some (match s.variant with
      | none => 0
      | some .simon64_96 => 42
      | some .simon64_128 => 44
      | some .simon128_128 => 68
      | some .simon128_192 => 69
      | some .simon128_256 => 72) ∧
    (∀ r, (s.respond (readAccess 0x14)).rdata = some r → r.extractLsb' 7 25 = 0) ∧
    (∀ v, s.afterAccess (writeAccess 0x14 v) = s) ∧
    (State.reset.respond (readAccess 0x14)).rdata = some 0

/-- A host address reaches the window exactly in [base, base + 256), at its distance from the base; from an aligned base
that is the address modulo 256 (R51). -/
def Obligations.WindowIsTwoHundredFiftySixBytes : Prop :=
  ∀ (p : Config.Platform) (A : Nat) (off : BitVec 8),
    (windowOffset p A = some off ↔ p.base ≤ A ∧ A < p.base + 256 ∧ off.toNat = A - p.base) ∧
    (p.Aligned → windowOffset p A = some off → off.toNat = A % 256)

/-! ## Whole-machine rules -/

/-- DOUT changes only at reset or at the successful completion of ENCRYPT, DECRYPT, ROLI, RORI, ROLV, RORV, FMIX or
ZEROIZE (R30, R245). -/
def Obligations.DoutChangesOnlyAtACompletion : Prop :=
  ∀ s t : State, step s = .next t → t.dout ≠ s.dout →
    (∃ es, s.events = .rst none :: es) ∨
    (s.coreNext ∧ ∃ v i, s.pending = some v ∧ decode v = .ok i ∧ i ≠ .nop ∧ (∀ w len, i ≠ .keysetup w len) ∧ t.err = 0)

/-- The round-key RAM and the loaded variant change only at reset, at a ZEROIZE or at a KEYSETUP that selects a variant
(R31, R32, R169, R246). -/
def Obligations.ScheduleChangesOnlyByKeysetupZeroizeReset : Prop :=
  ∀ s t : State, step s = .next t → t.rk ≠ s.rk ∨ t.variant ≠ s.variant →
    (∃ es, s.events = .rst none :: es) ∨
    (s.coreNext ∧ ∃ v, s.pending = some v ∧
      (decode v = .ok .zeroize ∨
       ∃ w len V, decode v = .ok (.keysetup w len) ∧ selectVariant w len = some V ∧ t.variant = some V))

/-- No sequence of host accesses tells the key buffer or the round keys: two states that differ in nothing else give the
same responses and go on differing in nothing else (R28, R55, R68). -/
def Obligations.AccessesNeverTellTheSecrets : Prop :=
  ∀ (as : List Access) (s t : State), SameButSecrets s t →
    s.responses as = t.responses as ∧ SameButSecrets (s.busAccesses as) (t.busAccesses as)

/-- R220: irq is CFG.IE AND DONE; what raises it and what clears it. -/
def Obligations.InterruptFollowsDoneAndEnable : Prop :=
  (∀ s : State, s.irq = true ↔ s.cfgIe = true ∧ s.done = true) ∧
  (∀ (s : State) (v : Word), v.getLsbD 1 = true → (s.afterAccess (writeAccess 0x08 v)).irq = false) ∧
  (∀ (s : State) (v : Word), s.pending = none → (s.afterAccess (writeAccess 0x0C v)).irq = false) ∧
  (∀ (s : State) (v : Word), v.getLsbD 0 = false → (s.afterAccess (writeAccess 0x04 v)).irq = false) ∧
  (∀ (s : State) (v : Word), v.getLsbD 0 = true → (s.afterAccess (writeAccess 0x04 v)).irq = s.done) ∧
  (∀ (s : State) (v : Word), ∃ t, complete v s = .next t ∧ t.irq = s.cfgIe) ∧
  (∀ s : State, s.afterReset.irq = false) ∧ State.reset.irq = false

/-! ## Reset and the invariant -/

/-- R38: every field at its reset value, and what every register reads after reset. -/
def Obligations.ResetLeavesTheStatedValues : Prop :=
  State.reset.cfgIe = false ∧ State.reset.done = false ∧ State.reset.ovr = false ∧ State.reset.err = 0 ∧
  State.reset.variant = none ∧ State.reset.rotamt = 0 ∧ State.reset.pending = none ∧
  (∀ j : Fin 8, State.reset.key[j] = 0) ∧ (∀ j : Fin 4, State.reset.din[j] = 0 ∧ State.reset.dout[j] = 0) ∧
  (∀ i : Fin 72, State.reset.rk[i] = 0) ∧
  (∀ off : BitVec 8, off.toNat % 4 = 0 →
    (State.reset.respond (readAccess off)).rdata =
      some (if off = 0x00 then 0x53494D4E else if off = 0x18 then 0x0000001F else 0))

/-- A reset abandons a pending command: none of its writes happen, DONE is not set, irq does not rise, and every field of
R20 takes its reset value (R240, R241); any other step keeps a pending command or completes it. The event list is the
model's (log 1). -/
def Obligations.ResetAbandonsThePendingCommand : Prop :=
  (∀ (s : State) (es : List Event), s.events = .rst none :: es →
    ∃ t, step s = .next t ∧ t.pending = none ∧ t.done = false ∧ t.irq = false ∧
      t = { State.reset with rsp := t.rsp, events := es }) ∧
  (∀ (s t : State) (v : Word), s.pending = some v → step s = .next t →
    (∃ es, s.events = .rst none :: es) ∨ t.pending = some v ∨
    (s.coreNext ∧ complete v (s.setEvents s.events.tail) = .next t ∧ t.pending = none ∧ t.done = true))

/-- The one stop: an access presented while rst is asserted has no step (R240, I16 of 93_implementation_defined.md); no
other state stops (that this is a fault is the model's reading, log 5). -/
def Obligations.OnlyAnAccessDuringResetStops : Prop :=
  ∀ s : State,
    (∀ r, step s ≠ .refused r) ∧
    (step s = .fault .accessDuringReset ↔ ∃ a es, s.events = .rst (some a) :: es)

/-- The invariant holds at reset. -/
def Obligations.InvariantHoldsAtReset : Prop := State.reset.Inv

/-- Every step keeps the invariant: DONE and ERR are 0 while busy, ERR is a produced code, the RAM holds the loaded
variant's schedule (R24, R31, R32, R211). -/
def Obligations.InvariantKeptByEveryStep : Prop :=
  ∀ s t : State, s.Inv → step s = .next t → t.Inv
end

