-- ==== Sys2Proof/Laws/State.lean ====
section
/-! SUPPORT. What each update of the state leaves in each field: one lemma a field, true by rfl. -/

namespace Sys2Proof.Machine

/-! ### commit -/

@[simp] theorem State.commit_cfgIe (code : BitVec 4) (s : State) : (s.commit code).cfgIe = s.cfgIe := rfl
@[simp] theorem State.commit_done (code : BitVec 4) (s : State) : (s.commit code).done = true := rfl
@[simp] theorem State.commit_ovr (code : BitVec 4) (s : State) : (s.commit code).ovr = s.ovr := rfl
@[simp] theorem State.commit_err (code : BitVec 4) (s : State) : (s.commit code).err = code := rfl
@[simp] theorem State.commit_variant (code : BitVec 4) (s : State) : (s.commit code).variant = s.variant := rfl
@[simp] theorem State.commit_rotamt (code : BitVec 4) (s : State) : (s.commit code).rotamt = s.rotamt := rfl
@[simp] theorem State.commit_key (code : BitVec 4) (s : State) : (s.commit code).key = s.key := rfl
@[simp] theorem State.commit_din (code : BitVec 4) (s : State) : (s.commit code).din = s.din := rfl
@[simp] theorem State.commit_dout (code : BitVec 4) (s : State) : (s.commit code).dout = s.dout := rfl
@[simp] theorem State.commit_rk (code : BitVec 4) (s : State) : (s.commit code).rk = s.rk := rfl
@[simp] theorem State.commit_pending (code : BitVec 4) (s : State) : (s.commit code).pending = none := rfl
@[simp] theorem State.commit_rsp (code : BitVec 4) (s : State) : (s.commit code).rsp = s.rsp := rfl
@[simp] theorem State.commit_events (code : BitVec 4) (s : State) : (s.commit code).events = s.events := rfl

/-! ### completeOk -/

@[simp] theorem State.completeOk_cfgIe (s : State) : (s.completeOk).cfgIe = s.cfgIe := rfl
@[simp] theorem State.completeOk_done (s : State) : (s.completeOk).done = true := rfl
@[simp] theorem State.completeOk_ovr (s : State) : (s.completeOk).ovr = s.ovr := rfl
@[simp] theorem State.completeOk_err (s : State) : (s.completeOk).err = 0 := rfl
@[simp] theorem State.completeOk_variant (s : State) : (s.completeOk).variant = s.variant := rfl
@[simp] theorem State.completeOk_rotamt (s : State) : (s.completeOk).rotamt = s.rotamt := rfl
@[simp] theorem State.completeOk_key (s : State) : (s.completeOk).key = s.key := rfl
@[simp] theorem State.completeOk_din (s : State) : (s.completeOk).din = s.din := rfl
@[simp] theorem State.completeOk_dout (s : State) : (s.completeOk).dout = s.dout := rfl
@[simp] theorem State.completeOk_rk (s : State) : (s.completeOk).rk = s.rk := rfl
@[simp] theorem State.completeOk_pending (s : State) : (s.completeOk).pending = none := rfl
@[simp] theorem State.completeOk_rsp (s : State) : (s.completeOk).rsp = s.rsp := rfl
@[simp] theorem State.completeOk_events (s : State) : (s.completeOk).events = s.events := rfl

/-! ### completeError -/

@[simp] theorem State.completeError_cfgIe (e : CmdError) (s : State) : (s.completeError e).cfgIe = s.cfgIe := rfl
@[simp] theorem State.completeError_done (e : CmdError) (s : State) : (s.completeError e).done = true := rfl
@[simp] theorem State.completeError_ovr (e : CmdError) (s : State) : (s.completeError e).ovr = s.ovr := rfl
@[simp] theorem State.completeError_err (e : CmdError) (s : State) : (s.completeError e).err = e.code := rfl
@[simp] theorem State.completeError_variant (e : CmdError) (s : State) : (s.completeError e).variant = s.variant := rfl
@[simp] theorem State.completeError_rotamt (e : CmdError) (s : State) : (s.completeError e).rotamt = s.rotamt := rfl
@[simp] theorem State.completeError_key (e : CmdError) (s : State) : (s.completeError e).key = s.key := rfl
@[simp] theorem State.completeError_din (e : CmdError) (s : State) : (s.completeError e).din = s.din := rfl
@[simp] theorem State.completeError_dout (e : CmdError) (s : State) : (s.completeError e).dout = s.dout := rfl
@[simp] theorem State.completeError_rk (e : CmdError) (s : State) : (s.completeError e).rk = s.rk := rfl
@[simp] theorem State.completeError_pending (e : CmdError) (s : State) : (s.completeError e).pending = none := rfl
@[simp] theorem State.completeError_rsp (e : CmdError) (s : State) : (s.completeError e).rsp = s.rsp := rfl
@[simp] theorem State.completeError_events (e : CmdError) (s : State) : (s.completeError e).events = s.events := rfl

/-! ### writeOneToClear -/

@[simp] theorem State.writeOneToClear_cfgIe (v : Word) (s : State) : (s.writeOneToClear v).cfgIe = s.cfgIe := rfl
@[simp] theorem State.writeOneToClear_done (v : Word) (s : State) : (s.writeOneToClear v).done = (s.done && !v.getLsbD 1) := rfl
@[simp] theorem State.writeOneToClear_ovr (v : Word) (s : State) : (s.writeOneToClear v).ovr = (s.ovr && !v.getLsbD 2) := rfl
@[simp] theorem State.writeOneToClear_err (v : Word) (s : State) : (s.writeOneToClear v).err = s.err := rfl
@[simp] theorem State.writeOneToClear_variant (v : Word) (s : State) : (s.writeOneToClear v).variant = s.variant := rfl
@[simp] theorem State.writeOneToClear_rotamt (v : Word) (s : State) : (s.writeOneToClear v).rotamt = s.rotamt := rfl
@[simp] theorem State.writeOneToClear_key (v : Word) (s : State) : (s.writeOneToClear v).key = s.key := rfl
@[simp] theorem State.writeOneToClear_din (v : Word) (s : State) : (s.writeOneToClear v).din = s.din := rfl
@[simp] theorem State.writeOneToClear_dout (v : Word) (s : State) : (s.writeOneToClear v).dout = s.dout := rfl
@[simp] theorem State.writeOneToClear_rk (v : Word) (s : State) : (s.writeOneToClear v).rk = s.rk := rfl
@[simp] theorem State.writeOneToClear_pending (v : Word) (s : State) : (s.writeOneToClear v).pending = s.pending := rfl
@[simp] theorem State.writeOneToClear_rsp (v : Word) (s : State) : (s.writeOneToClear v).rsp = s.rsp := rfl
@[simp] theorem State.writeOneToClear_events (v : Word) (s : State) : (s.writeOneToClear v).events = s.events := rfl

/-! ### dropWrite -/

@[simp] theorem State.dropWrite_cfgIe (s : State) : (s.dropWrite).cfgIe = s.cfgIe := rfl
@[simp] theorem State.dropWrite_done (s : State) : (s.dropWrite).done = s.done := rfl
@[simp] theorem State.dropWrite_ovr (s : State) : (s.dropWrite).ovr = true := rfl
@[simp] theorem State.dropWrite_err (s : State) : (s.dropWrite).err = s.err := rfl
@[simp] theorem State.dropWrite_variant (s : State) : (s.dropWrite).variant = s.variant := rfl
@[simp] theorem State.dropWrite_rotamt (s : State) : (s.dropWrite).rotamt = s.rotamt := rfl
@[simp] theorem State.dropWrite_key (s : State) : (s.dropWrite).key = s.key := rfl
@[simp] theorem State.dropWrite_din (s : State) : (s.dropWrite).din = s.din := rfl
@[simp] theorem State.dropWrite_dout (s : State) : (s.dropWrite).dout = s.dout := rfl
@[simp] theorem State.dropWrite_rk (s : State) : (s.dropWrite).rk = s.rk := rfl
@[simp] theorem State.dropWrite_pending (s : State) : (s.dropWrite).pending = s.pending := rfl
@[simp] theorem State.dropWrite_rsp (s : State) : (s.dropWrite).rsp = s.rsp := rfl
@[simp] theorem State.dropWrite_events (s : State) : (s.dropWrite).events = s.events := rfl

/-! ### takeCommand -/

@[simp] theorem State.takeCommand_cfgIe (v : Word) (s : State) : (s.takeCommand v).cfgIe = s.cfgIe := rfl
@[simp] theorem State.takeCommand_done (v : Word) (s : State) : (s.takeCommand v).done = false := rfl
@[simp] theorem State.takeCommand_ovr (v : Word) (s : State) : (s.takeCommand v).ovr = s.ovr := rfl
@[simp] theorem State.takeCommand_err (v : Word) (s : State) : (s.takeCommand v).err = 0 := rfl
@[simp] theorem State.takeCommand_variant (v : Word) (s : State) : (s.takeCommand v).variant = s.variant := rfl
@[simp] theorem State.takeCommand_rotamt (v : Word) (s : State) : (s.takeCommand v).rotamt = s.rotamt := rfl
@[simp] theorem State.takeCommand_key (v : Word) (s : State) : (s.takeCommand v).key = s.key := rfl
@[simp] theorem State.takeCommand_din (v : Word) (s : State) : (s.takeCommand v).din = s.din := rfl
@[simp] theorem State.takeCommand_dout (v : Word) (s : State) : (s.takeCommand v).dout = s.dout := rfl
@[simp] theorem State.takeCommand_rk (v : Word) (s : State) : (s.takeCommand v).rk = s.rk := rfl
@[simp] theorem State.takeCommand_pending (v : Word) (s : State) : (s.takeCommand v).pending = some v := rfl
@[simp] theorem State.takeCommand_rsp (v : Word) (s : State) : (s.takeCommand v).rsp = s.rsp := rfl
@[simp] theorem State.takeCommand_events (v : Word) (s : State) : (s.takeCommand v).events = s.events := rfl

/-! ### writeDout -/

@[simp] theorem State.writeDout_cfgIe (d : Vector Word 4) (s : State) : (s.writeDout d).cfgIe = s.cfgIe := rfl
@[simp] theorem State.writeDout_done (d : Vector Word 4) (s : State) : (s.writeDout d).done = s.done := rfl
@[simp] theorem State.writeDout_ovr (d : Vector Word 4) (s : State) : (s.writeDout d).ovr = s.ovr := rfl
@[simp] theorem State.writeDout_err (d : Vector Word 4) (s : State) : (s.writeDout d).err = s.err := rfl
@[simp] theorem State.writeDout_variant (d : Vector Word 4) (s : State) : (s.writeDout d).variant = s.variant := rfl
@[simp] theorem State.writeDout_rotamt (d : Vector Word 4) (s : State) : (s.writeDout d).rotamt = s.rotamt := rfl
@[simp] theorem State.writeDout_key (d : Vector Word 4) (s : State) : (s.writeDout d).key = s.key := rfl
@[simp] theorem State.writeDout_din (d : Vector Word 4) (s : State) : (s.writeDout d).din = s.din := rfl
@[simp] theorem State.writeDout_dout (d : Vector Word 4) (s : State) : (s.writeDout d).dout = d := rfl
@[simp] theorem State.writeDout_rk (d : Vector Word 4) (s : State) : (s.writeDout d).rk = s.rk := rfl
@[simp] theorem State.writeDout_pending (d : Vector Word 4) (s : State) : (s.writeDout d).pending = s.pending := rfl
@[simp] theorem State.writeDout_rsp (d : Vector Word 4) (s : State) : (s.writeDout d).rsp = s.rsp := rfl
@[simp] theorem State.writeDout_events (d : Vector Word 4) (s : State) : (s.writeDout d).events = s.events := rfl

/-! ### loadSchedule -/

@[simp] theorem State.loadSchedule_cfgIe (V : Variant) (ram : Vector (BitVec 64) 72) (s : State) : (s.loadSchedule V ram).cfgIe = s.cfgIe := rfl
@[simp] theorem State.loadSchedule_done (V : Variant) (ram : Vector (BitVec 64) 72) (s : State) : (s.loadSchedule V ram).done = s.done := rfl
@[simp] theorem State.loadSchedule_ovr (V : Variant) (ram : Vector (BitVec 64) 72) (s : State) : (s.loadSchedule V ram).ovr = s.ovr := rfl
@[simp] theorem State.loadSchedule_err (V : Variant) (ram : Vector (BitVec 64) 72) (s : State) : (s.loadSchedule V ram).err = s.err := rfl
@[simp] theorem State.loadSchedule_variant (V : Variant) (ram : Vector (BitVec 64) 72) (s : State) : (s.loadSchedule V ram).variant = some V := rfl
@[simp] theorem State.loadSchedule_rotamt (V : Variant) (ram : Vector (BitVec 64) 72) (s : State) : (s.loadSchedule V ram).rotamt = s.rotamt := rfl
@[simp] theorem State.loadSchedule_key (V : Variant) (ram : Vector (BitVec 64) 72) (s : State) : (s.loadSchedule V ram).key = s.key := rfl
@[simp] theorem State.loadSchedule_din (V : Variant) (ram : Vector (BitVec 64) 72) (s : State) : (s.loadSchedule V ram).din = s.din := rfl
@[simp] theorem State.loadSchedule_dout (V : Variant) (ram : Vector (BitVec 64) 72) (s : State) : (s.loadSchedule V ram).dout = s.dout := rfl
@[simp] theorem State.loadSchedule_rk (V : Variant) (ram : Vector (BitVec 64) 72) (s : State) : (s.loadSchedule V ram).rk = ram := rfl
@[simp] theorem State.loadSchedule_pending (V : Variant) (ram : Vector (BitVec 64) 72) (s : State) : (s.loadSchedule V ram).pending = s.pending := rfl
@[simp] theorem State.loadSchedule_rsp (V : Variant) (ram : Vector (BitVec 64) 72) (s : State) : (s.loadSchedule V ram).rsp = s.rsp := rfl
@[simp] theorem State.loadSchedule_events (V : Variant) (ram : Vector (BitVec 64) 72) (s : State) : (s.loadSchedule V ram).events = s.events := rfl

/-! ### wipe -/

@[simp] theorem State.wipe_cfgIe (s : State) : (s.wipe).cfgIe = s.cfgIe := rfl
@[simp] theorem State.wipe_done (s : State) : (s.wipe).done = s.done := rfl
@[simp] theorem State.wipe_ovr (s : State) : (s.wipe).ovr = s.ovr := rfl
@[simp] theorem State.wipe_err (s : State) : (s.wipe).err = s.err := rfl
@[simp] theorem State.wipe_variant (s : State) : (s.wipe).variant = none := rfl
@[simp] theorem State.wipe_rotamt (s : State) : (s.wipe).rotamt = s.rotamt := rfl
@[simp] theorem State.wipe_key (s : State) : (s.wipe).key = Vector.replicate 8 0 := rfl
@[simp] theorem State.wipe_din (s : State) : (s.wipe).din = Vector.replicate 4 0 := rfl
@[simp] theorem State.wipe_dout (s : State) : (s.wipe).dout = Vector.replicate 4 0 := rfl
@[simp] theorem State.wipe_rk (s : State) : (s.wipe).rk = Vector.replicate 72 0 := rfl
@[simp] theorem State.wipe_pending (s : State) : (s.wipe).pending = s.pending := rfl
@[simp] theorem State.wipe_rsp (s : State) : (s.wipe).rsp = s.rsp := rfl
@[simp] theorem State.wipe_events (s : State) : (s.wipe).events = s.events := rfl

/-! ### setRsp -/

@[simp] theorem State.setRsp_cfgIe (r : Response) (s : State) : (s.setRsp r).cfgIe = s.cfgIe := rfl
@[simp] theorem State.setRsp_done (r : Response) (s : State) : (s.setRsp r).done = s.done := rfl
@[simp] theorem State.setRsp_ovr (r : Response) (s : State) : (s.setRsp r).ovr = s.ovr := rfl
@[simp] theorem State.setRsp_err (r : Response) (s : State) : (s.setRsp r).err = s.err := rfl
@[simp] theorem State.setRsp_variant (r : Response) (s : State) : (s.setRsp r).variant = s.variant := rfl
@[simp] theorem State.setRsp_rotamt (r : Response) (s : State) : (s.setRsp r).rotamt = s.rotamt := rfl
@[simp] theorem State.setRsp_key (r : Response) (s : State) : (s.setRsp r).key = s.key := rfl
@[simp] theorem State.setRsp_din (r : Response) (s : State) : (s.setRsp r).din = s.din := rfl
@[simp] theorem State.setRsp_dout (r : Response) (s : State) : (s.setRsp r).dout = s.dout := rfl
@[simp] theorem State.setRsp_rk (r : Response) (s : State) : (s.setRsp r).rk = s.rk := rfl
@[simp] theorem State.setRsp_pending (r : Response) (s : State) : (s.setRsp r).pending = s.pending := rfl
@[simp] theorem State.setRsp_rsp (r : Response) (s : State) : (s.setRsp r).rsp = some r := rfl
@[simp] theorem State.setRsp_events (r : Response) (s : State) : (s.setRsp r).events = s.events := rfl

/-! ### setEvents -/

@[simp] theorem State.setEvents_cfgIe (es : List Event) (s : State) : (s.setEvents es).cfgIe = s.cfgIe := rfl
@[simp] theorem State.setEvents_done (es : List Event) (s : State) : (s.setEvents es).done = s.done := rfl
@[simp] theorem State.setEvents_ovr (es : List Event) (s : State) : (s.setEvents es).ovr = s.ovr := rfl
@[simp] theorem State.setEvents_err (es : List Event) (s : State) : (s.setEvents es).err = s.err := rfl
@[simp] theorem State.setEvents_variant (es : List Event) (s : State) : (s.setEvents es).variant = s.variant := rfl
@[simp] theorem State.setEvents_rotamt (es : List Event) (s : State) : (s.setEvents es).rotamt = s.rotamt := rfl
@[simp] theorem State.setEvents_key (es : List Event) (s : State) : (s.setEvents es).key = s.key := rfl
@[simp] theorem State.setEvents_din (es : List Event) (s : State) : (s.setEvents es).din = s.din := rfl
@[simp] theorem State.setEvents_dout (es : List Event) (s : State) : (s.setEvents es).dout = s.dout := rfl
@[simp] theorem State.setEvents_rk (es : List Event) (s : State) : (s.setEvents es).rk = s.rk := rfl
@[simp] theorem State.setEvents_pending (es : List Event) (s : State) : (s.setEvents es).pending = s.pending := rfl
@[simp] theorem State.setEvents_rsp (es : List Event) (s : State) : (s.setEvents es).rsp = s.rsp := rfl
@[simp] theorem State.setEvents_events (es : List Event) (s : State) : (s.setEvents es).events = es := rfl

/-! ### afterReset -/

@[simp] theorem State.afterReset_cfgIe (s : State) : s.afterReset.cfgIe = State.reset.cfgIe := rfl
@[simp] theorem State.afterReset_done (s : State) : s.afterReset.done = State.reset.done := rfl
@[simp] theorem State.afterReset_ovr (s : State) : s.afterReset.ovr = State.reset.ovr := rfl
@[simp] theorem State.afterReset_err (s : State) : s.afterReset.err = State.reset.err := rfl
@[simp] theorem State.afterReset_variant (s : State) : s.afterReset.variant = State.reset.variant := rfl
@[simp] theorem State.afterReset_rotamt (s : State) : s.afterReset.rotamt = State.reset.rotamt := rfl
@[simp] theorem State.afterReset_key (s : State) : s.afterReset.key = State.reset.key := rfl
@[simp] theorem State.afterReset_din (s : State) : s.afterReset.din = State.reset.din := rfl
@[simp] theorem State.afterReset_dout (s : State) : s.afterReset.dout = State.reset.dout := rfl
@[simp] theorem State.afterReset_rk (s : State) : s.afterReset.rk = State.reset.rk := rfl
@[simp] theorem State.afterReset_pending (s : State) : s.afterReset.pending = State.reset.pending := rfl
@[simp] theorem State.afterReset_rsp (s : State) : s.afterReset.rsp = State.reset.rsp := rfl
@[simp] theorem State.afterReset_events (s : State) : s.afterReset.events = s.events := rfl

end Sys2Proof.Machine
end

