-- ==== Sys2Proof/Laws/Ops.lean ====
section
/-! SUPPORT. What each shared operation on the state can do, said once: acceptance, register writes, bus accesses. -/

namespace Sys2Proof.Machine

variable {s : State}

theorem State.busy_iff : s.busy = true ↔ ∃ v, s.pending = some v := Option.isSome_iff_exists

theorem State.not_busy_iff : s.busy = false ↔ s.pending = none := by
  simp [State.busy]

theorem State.accept_of_busy (v : Word) (h : s.busy = true) : s.accept v = s.dropWrite := by
  simp [State.accept, h]

theorem State.accept_of_idle (v : Word) (h : s.busy = false) : s.accept v = s.takeCommand v := by
  simp [State.accept, h]

theorem State.unlessBusy_of_busy (t : State) (h : s.busy = true) : s.unlessBusy t = s.dropWrite := by
  simp [State.unlessBusy, h]

theorem State.unlessBusy_of_idle (t : State) (h : s.busy = false) : s.unlessBusy t = t := by
  simp [State.unlessBusy, h]

/-- Everything a register write can do (R56). -/
theorem State.writeReg_cases (v : Word) (s : State) (r : Reg) :
    s.writeReg v r = s ∨
    (r = .cfg ∧ s.writeReg v r = { s with cfgIe := v.getLsbD 0 }) ∨
    (r = .status ∧ s.writeReg v r = s.writeOneToClear v) ∨
    (s.busy = true ∧ s.writeReg v r = s.dropWrite) ∨
    (s.busy = false ∧ r = .cmd ∧ s.writeReg v r = s.takeCommand v) ∨
    (s.busy = false ∧ r = .rotamt ∧ s.writeReg v r = { s with rotamt := v.setWidth 6 }) ∨
    (s.busy = false ∧ ∃ j, r = .key j ∧ s.writeReg v r = { s with key := s.key.set j v }) ∨
    (s.busy = false ∧ ∃ j, r = .din j ∧ s.writeReg v r = { s with din := s.din.set j v }) := by
  cases r <;> cases h : s.busy <;> simp [State.writeReg, State.accept, State.unlessBusy, h]

/-- A register write never touches the schedule, the output buffer or the ports (R30, R31, R56). -/
theorem State.writeReg_keeps (v : Word) (s : State) (r : Reg) :
    (s.writeReg v r).variant = s.variant ∧ (s.writeReg v r).rk = s.rk ∧ (s.writeReg v r).dout = s.dout ∧
    (s.writeReg v r).rsp = s.rsp ∧ (s.writeReg v r).events = s.events := by
  obtain h | ⟨-, h⟩ | ⟨-, h⟩ | ⟨-, h⟩ | ⟨-, -, h⟩ | ⟨-, -, h⟩ | ⟨-, j, -, h⟩ | ⟨-, j, -, h⟩ :=
    State.writeReg_cases v s r <;> rw [h] <;> simp

/-- What an access does to the core: nothing, or one register write (R53, R55, R56). -/
theorem State.afterAccess_cases (a : Access) (s : State) :
    s.afterAccess a = s ∨ (a.legal = true ∧ a.we = true ∧ s.afterAccess a = s.writeReg a.wdata (regAt a.off)) := by
  unfold State.afterAccess
  split
  · next h => exact .inr ⟨by simp_all, by simp_all, rfl⟩
  · exact .inl rfl

@[simp] theorem State.busAccess_rsp (a : Access) (s : State) : (s.busAccess a).rsp = some (s.respond a) := rfl

theorem State.afterAccess_keeps (a : Access) (s : State) :
    (s.afterAccess a).variant = s.variant ∧ (s.afterAccess a).rk = s.rk ∧ (s.afterAccess a).dout = s.dout ∧
    (s.afterAccess a).rsp = s.rsp ∧ (s.afterAccess a).events = s.events := by
  obtain h | ⟨-, -, h⟩ := s.afterAccess_cases a <;> rw [h]
  · simp
  · exact s.writeReg_keeps _ _

@[simp] theorem State.busAccess_variant (a : Access) (s : State) : (s.busAccess a).variant = s.variant :=
  (s.afterAccess_keeps a).1
@[simp] theorem State.busAccess_rk (a : Access) (s : State) : (s.busAccess a).rk = s.rk :=
  (s.afterAccess_keeps a).2.1
@[simp] theorem State.busAccess_dout (a : Access) (s : State) : (s.busAccess a).dout = s.dout :=
  (s.afterAccess_keeps a).2.2.1
@[simp] theorem State.busAccess_events (a : Access) (s : State) : (s.busAccess a).events = s.events :=
  (s.afterAccess_keeps a).2.2.2.2

end Sys2Proof.Machine
end

