-- ==== Sys2Proof/Laws/Exec.lean ====
section
/-! SUPPORT. What each command's completion answers, one equation a command; what all of them can do, said once; the
length of a schedule. -/

namespace Sys2Proof.Machine

variable {s t : State} {w : Width} {V : Variant}

/-! ## One equation a command -/

theorem exec_nop : exec .nop s = .next s.completeOk := rfl

theorem exec_zeroize : exec .zeroize s = .next s.wipe.completeOk := rfl

theorem exec_keysetup_of_none {len : Nat} (h : selectVariant w len = none) :
    exec (.keysetup w len) s = .next (s.completeError .keylen) := by
  simp [exec, execKeysetup, h]

theorem exec_keysetup_of_some {len : Nat} (h : selectVariant w len = some V) :
    exec (.keysetup w len) s = .next (s.loadSchedule V (scheduleRam V s.key)).completeOk := by
  simp [exec, execKeysetup, h]

theorem blockCommand_of_none {f} (h : s.variant = none) : blockCommand f s = s.completeError .nokey := by
  simp [blockCommand, h]

theorem blockCommand_of_some {f} (h : s.variant = some V) :
    blockCommand f s = (s.writeDout (blockResult V.width
      (f V.width.bits V.rounds (ramKey s.rk) (blockOperand V.width s.din)))).completeOk := by
  simp [blockCommand, h]

theorem exec_encrypt : exec .encrypt s = .next (blockCommand (fun _ => encryptBlock) s) := rfl

theorem exec_decrypt : exec .decrypt s = .next (blockCommand (fun _ => decryptBlock) s) := rfl

theorem exec_roli {k : Nat} :
    exec (.roli w k) s = .next (wordCommand w (fun op => rol op (reduceAmount w k)) s) := rfl

theorem exec_rori {k : Nat} :
    exec (.rori w k) s = .next (wordCommand w (fun op => ror op (reduceAmount w k)) s) := rfl

theorem exec_rolv :
    exec (.rolv w) s = .next (wordCommand w (fun op => rol op (reduceAmount w s.rotamt.toNat)) s) := rfl

theorem exec_rorv :
    exec (.rorv w) s = .next (wordCommand w (fun op => ror op (reduceAmount w s.rotamt.toNat)) s) := rfl

theorem exec_fmix : exec (.fmix w) s = .next (wordCommand w mix s) := rfl

/-! ## All commands at once -/

/-- What a block command can do (R164, R165). -/
theorem blockCommand_cases (f) (s : State) :
    (s.variant = none ∧ blockCommand f s = s.completeError .nokey) ∨
    ∃ d, blockCommand f s = (s.writeDout d).completeOk := by
  cases h : s.variant with
  | none => exact .inl ⟨rfl, blockCommand_of_none h⟩
  | some V => exact .inr ⟨_, blockCommand_of_some h⟩

/-- Everything a command's completion can do (R191, R192): it fails and only STATUS changes, or it succeeds with the
effect of its own kind. -/
theorem exec_cases (i : Instr) (s : State) :
    (∃ e, exec i s = .next (s.completeError e)) ∨
    (i = .nop ∧ exec i s = .next s.completeOk) ∨
    (i = .zeroize ∧ exec i s = .next s.wipe.completeOk) ∨
    (∃ w len V, i = .keysetup w len ∧ selectVariant w len = some V ∧
      exec i s = .next (s.loadSchedule V (scheduleRam V s.key)).completeOk) ∨
    (∃ d, (i ≠ .nop ∧ i ≠ .zeroize ∧ ∀ w len, i ≠ .keysetup w len) ∧ exec i s = .next (s.writeDout d).completeOk) := by
  cases i with
  | nop => exact .inr (.inl ⟨rfl, rfl⟩)
  | zeroize => exact .inr (.inr (.inl ⟨rfl, rfl⟩))
  | keysetup w len =>
    cases h : selectVariant w len with
    | none => exact .inl ⟨_, exec_keysetup_of_none h⟩
    | some V => exact .inr (.inr (.inr (.inl ⟨w, len, V, rfl, h, exec_keysetup_of_some h⟩)))
  | encrypt =>
    obtain ⟨-, h⟩ | ⟨d, h⟩ := blockCommand_cases (fun _ => encryptBlock) s
    · exact .inl ⟨_, by rw [exec_encrypt, h]⟩
    · exact .inr (.inr (.inr (.inr ⟨d, by simp, by rw [exec_encrypt, h]⟩)))
  | decrypt =>
    obtain ⟨-, h⟩ | ⟨d, h⟩ := blockCommand_cases (fun _ => decryptBlock) s
    · exact .inl ⟨_, by rw [exec_decrypt, h]⟩
    · exact .inr (.inr (.inr (.inr ⟨d, by simp, by rw [exec_decrypt, h]⟩)))
  | roli w k => exact .inr (.inr (.inr (.inr ⟨_, by simp, rfl⟩)))
  | rori w k => exact .inr (.inr (.inr (.inr ⟨_, by simp, rfl⟩)))
  | rolv w => exact .inr (.inr (.inr (.inr ⟨_, by simp, rfl⟩)))
  | rorv w => exact .inr (.inr (.inr (.inr ⟨_, by simp, rfl⟩)))
  | fmix w => exact .inr (.inr (.inr (.inr ⟨_, by simp, rfl⟩)))

theorem committed_completeOk (s : State) : Committed 0 s s.completeOk :=
  ⟨rfl, rfl, rfl, rfl, rfl, rfl, rfl, rfl⟩

theorem committed_completeError (e : CmdError) (s : State) : Committed e.code s (s.completeError e) :=
  ⟨rfl, rfl, rfl, rfl, rfl, rfl, rfl, rfl⟩

/-! ## The length of a schedule -/

theorem expandZ_length {n : Nat} (m count : Nat) (z : BitVec 64) (ks : List (BitVec n)) :
    (expandZ m count z ks).length = ks.length + count := by
  induction count generalizing z ks with
  | zero => rfl
  | succ c ih => simp only [expandZ, ih, List.length_cons]; omega

theorem expandTail_length {n : Nat} (m : Nat) (bs : List (BitVec 1)) (ks : List (BitVec n)) :
    (expandTail m bs ks).length = ks.length + bs.length := by
  induction bs generalizing ks with
  | nil => rfl
  | cons b bs ih => simp only [expandTail, ih, List.length_cons]; omega

theorem expand_length {n : Nat} (V : Variant) (uk : List (BitVec n)) :
    (expand V uk).length = uk.length + (V.zEnd - V.keyWords) + V.tail.length := by
  simp [expand, seedKeys, expandTail_length, expandZ_length]

theorem userKey_length (V : Variant) (key : Vector Word 8) : (userKey V key).length = V.keyWords := by
  simp [userKey]

end Sys2Proof.Machine
end

