-- ==== Sys2Proof/Laws/PerInstr.lean ====
section
/-! SUPPORT. Statements made per command: the encoding of each well-formed command has its own OP and no reserved bit set
(R84, R85). -/

namespace Sys2Proof.Laws.EncodingFields

/-- The OP value of the opcode map (R85). -/
def opcode : Instr → BitVec 4
  | .nop => 0x0
  | .keysetup _ _ => 0x1
  | .encrypt => 0x2
  | .decrypt => 0x3
  | .roli _ _ => 0x4
  | .rori _ _ => 0x5
  | .rolv _ => 0x6
  | .rorv _ => 0x7
  | .fmix _ => 0x8
  | .zeroize => 0x9

/-- A well-formed command's word has its OP, and RSV0, RSV1 and RSV2 are 0. -/
def Statement (i : Instr) : Prop :=
  i.wellFormed = true →
    opField (encode i) = opcode i ∧ rsv0Field (encode i) = 0 ∧ rsv1Field (encode i) = 0 ∧ rsv2Field (encode i) = 0

theorem nop : Statement .nop := by unfold Statement; decide

theorem encrypt : Statement .encrypt := by unfold Statement; decide

theorem decrypt : Statement .decrypt := by unfold Statement; decide

theorem zeroize : Statement .zeroize := by unfold Statement; decide

theorem rolv (w : Width) : Statement (.rolv w) := by cases w <;> unfold Statement <;> decide

theorem rorv (w : Width) : Statement (.rorv w) := by cases w <;> unfold Statement <;> decide

theorem fmix (w : Width) : Statement (.fmix w) := by cases w <;> unfold Statement <;> decide

/-- The fields of a packed word with a six-bit immediate, for each opcode that takes one and each width. -/
theorem packed_fields (op : Word) (ho : op = 0x1 ∨ op = 0x4 ∨ op = 0x5) (w : Width) (k : Nat) (hk : k < 64) :
    opField (packFields op w.bit k) = op.setWidth 4 ∧ rsv0Field (packFields op w.bit k) = 0 ∧
    rsv1Field (packFields op w.bit k) = 0 ∧ rsv2Field (packFields op w.bit k) = 0 := by
  obtain rfl | rfl | rfl := ho <;> cases w <;> revert k <;> decide

theorem keysetup (w : Width) (len : Nat) : Statement (.keysetup w len) := fun h =>
  packed_fields 0x1 (by simp) w len (Nat.lt_succ_of_le (of_decide_eq_true h))

theorem roli (w : Width) (k : Nat) : Statement (.roli w k) := fun h =>
  packed_fields 0x4 (by simp) w k (Nat.lt_succ_of_le (of_decide_eq_true h))

theorem rori (w : Width) (k : Nat) : Statement (.rori w k) := fun h =>
  packed_fields 0x5 (by simp) w k (Nat.lt_succ_of_le (of_decide_eq_true h))

end Sys2Proof.Laws.EncodingFields
end

