-- ==== Sys2Proof/Laws/Step.lean ====
section
/-! SUPPORT. What a step can do, said once (R11, R63). -/

namespace Sys2Proof.Machine

variable {s t : State}

theorem State.setEvents_self (s : State) : s.setEvents s.events = s := rfl

theorem complete_of_ok {v : Word} {i : Instr} (h : decode v = .ok i) : complete v s = exec i s := by
  simp [complete, h]

theorem complete_of_error {v : Word} {r : Illegal} (h : decode v = .error r) :
    complete v s = .next (s.completeError .illegal) := by
  simp [complete, h]

theorem coreTurn_of_pending {v : Word} (h : s.pending = some v) : coreTurn s = complete v s := by
  simp [coreTurn, h]

theorem coreTurn_of_idle (h : s.pending = none) : coreTurn s = .next s := by
  simp [coreTurn, h]

theorem step_of_nil (h : s.events = []) : step s = coreTurn s := by
  simp [step, nextTurn, h]

theorem step_of_cons {e : Event} {es : List Event} (h : s.events = e :: es) :
    step s = takeTurn e (s.setEvents es) := by
  simp [step, nextTurn, h]

/-- Everything a step that goes on can have been: the core idle, a completion, a host access, or a reset. -/
theorem step_cases (h : step s = .next t) :
    (s.coreNext ∧ s.pending = none ∧ t = s.setEvents s.events.tail) ∨
    (s.coreNext ∧ ∃ v, s.pending = some v ∧ complete v (s.setEvents s.events.tail) = .next t) ∨
    (∃ a es, s.events = .bus a :: es ∧ t = (s.setEvents es).busAccess a) ∨
    (∃ es, s.events = .rst none :: es ∧ t = (s.setEvents es).afterReset) := by
  cases he : s.events with
  | nil =>
    have hs : s.setEvents s.events.tail = s := by simpa [he] using s.setEvents_self
    rw [step_of_nil he] at h
    rw [he] at hs
    cases hp : s.pending with
    | none =>
      rw [coreTurn_of_idle hp] at h
      exact .inl ⟨.inl he, rfl, by rw [hs]; exact (Host.Outcome.next.inj h).symm⟩
    | some v =>
      rw [coreTurn_of_pending hp] at h
      exact .inr (.inl ⟨.inl he, v, rfl, by rw [hs]; exact h⟩)
  | cons e es =>
    rw [step_of_cons he] at h
    cases e with
    | core =>
      have hn : s.coreNext := .inr ⟨es, he⟩
      simp only [takeTurn] at h
      cases hp : s.pending with
      | none =>
        rw [coreTurn_of_idle (by simpa using hp)] at h
        exact .inl ⟨hn, rfl, (Host.Outcome.next.inj h).symm⟩
      | some v =>
        rw [coreTurn_of_pending (v := v) (by simpa using hp)] at h
        exact .inr (.inl ⟨hn, v, rfl, h⟩)
    | bus a => exact .inr (.inr (.inl ⟨a, es, rfl, (Host.Outcome.next.inj h).symm⟩))
    | rst p =>
      cases p with
      | none => exact .inr (.inr (.inr ⟨es, rfl, (Host.Outcome.next.inj h).symm⟩))
      | some a => exact absurd h (by simp [takeTurn])

/-! ## Runs -/

theorem run_zero (s : State) : Sys2Proof.core.run 0 s = .next s := rfl

/-- A run goes on from the state its first step leaves. -/
theorem run_succ_of_next {n : Nat} (h : step s = .next t) :
    Sys2Proof.core.run (n + 1) s = Sys2Proof.core.run n t := by
  have h' : Sys2Proof.core.step s = .next t := h
  simp only [Host.Core.run, h']

/-- What the completion of a word can do (R191, R192): as `exec_cases`, with ILLEGAL among the errors. -/
theorem complete_cases (v : Word) (s : State) :
    (∃ e, complete v s = .next (s.completeError e)) ∨
    (∃ i, decode v = .ok i ∧ complete v s = exec i s) := by
  cases h : decode v with
  | ok i => exact .inr ⟨i, rfl, complete_of_ok h⟩
  | error r => exact .inl ⟨_, complete_of_error h⟩

end Sys2Proof.Machine
end

