-- ==== Sys2Proof/Laws/Window.lean ====
section
/-! SUPPORT. The register window: which register each offset reaches (R52), and what a legal read or write through it is. -/

namespace Sys2Proof.Machine

theorem regAt_id : regAt 0x00 = .id := by decide
@[simp] theorem regAt_id_lit : regAt 0x00#8 = .id := regAt_id
theorem regAt_cfg : regAt 0x04 = .cfg := by decide
@[simp] theorem regAt_cfg_lit : regAt 0x04#8 = .cfg := regAt_cfg
theorem regAt_status : regAt 0x08 = .status := by decide
@[simp] theorem regAt_status_lit : regAt 0x08#8 = .status := regAt_status
theorem regAt_cmd : regAt 0x0C = .cmd := by decide
@[simp] theorem regAt_cmd_lit : regAt 0x0C#8 = .cmd := regAt_cmd
theorem regAt_rotamt : regAt 0x10 = .rotamt := by decide
@[simp] theorem regAt_rotamt_lit : regAt 0x10#8 = .rotamt := regAt_rotamt
theorem regAt_rounds : regAt 0x14 = .rounds := by decide
@[simp] theorem regAt_rounds_lit : regAt 0x14#8 = .rounds := regAt_rounds
theorem regAt_cap : regAt 0x18 = .cap := by decide
@[simp] theorem regAt_cap_lit : regAt 0x18#8 = .cap := regAt_cap
theorem regAt_key (j : Fin 8) : regAt (BitVec.ofNat 8 (0x20 + 4 * j.val)) = .key j := by revert j; decide
theorem regAt_din (j : Fin 4) : regAt (BitVec.ofNat 8 (0x40 + 4 * j.val)) = .din j := by revert j; decide
theorem regAt_dout (j : Fin 4) : regAt (BitVec.ofNat 8 (0x50 + 4 * j.val)) = .dout j := by revert j; decide

/-- The reserved offsets (R54). -/
theorem regAt_reserved {off : BitVec 8} (h4 : off.toNat % 4 = 0) (h : off = 0x1C ∨ 0x60 ≤ off.toNat) :
    regAt off = .reserved := by
  revert off; decide

variable {s : State} {off : BitVec 8} {v : Word}

theorem legal_readAccess (h4 : off.toNat % 4 = 0) : (readAccess off).legal = true := by
  simp [Access.legal, readAccess, h4]

theorem legal_writeAccess (h4 : off.toNat % 4 = 0) : (writeAccess off v).legal = true := by
  simp [Access.legal, writeAccess, h4]

theorem legal_eq_false {a : Access} (h : a.size ≠ 4 ∨ a.off.toNat % 4 ≠ 0) : a.legal = false := by
  simp only [Access.legal, Bool.and_eq_false_iff, decide_eq_false_iff_not]
  exact h

/-- A legal read returns the register (R55). -/
theorem respond_readAccess (h4 : off.toNat % 4 = 0) :
    s.respond (readAccess off) = ⟨false, some (s.readReg (regAt off))⟩ := by
  simp only [State.respond, legal_readAccess h4]
  rfl

/-- A legal write is answered without an error and without data (R53; log 4). -/
theorem respond_writeAccess (h4 : off.toNat % 4 = 0) : s.respond (writeAccess off v) = ⟨false, none⟩ := by
  simp only [State.respond, legal_writeAccess h4]
  rfl

/-- A legal write is a register write (R56). -/
theorem afterAccess_writeAccess (h4 : off.toNat % 4 = 0) :
    s.afterAccess (writeAccess off v) = s.writeReg v (regAt off) := by
  simp only [State.afterAccess, legal_writeAccess h4]
  rfl

/-- A read does nothing to the core (R55). -/
theorem afterAccess_read {a : Access} (h : a.we = false) : s.afterAccess a = s := by
  simp [State.afterAccess, h]

/-- An illegal access does nothing to the core (R53). -/
theorem afterAccess_illegal {a : Access} (h : a.legal = false) : s.afterAccess a = s := by
  simp [State.afterAccess, h]

end Sys2Proof.Machine
end

