-- ==== Sys2Proof/Tests/Slice0.lean ====
section
/-! SUPPORT. Small tests, their expected values from 95_test_vectors.md and the rules' own examples, and for every statement
with hypotheses a state and operands that meet them together. -/

namespace Sys2Proof.Tests

open Sys2Proof Sys2Proof.Machine

/-! ## Helpers -/

/-- What `f` reads in the next state; `none` where there is none. -/
def reads {α : Type} (o : Host.Outcome State Fault Refusal) (f : State → α) : Option α :=
  match o with
  | .next t => some (f t)
  | .fault _ => none
  | .refused _ => none

/-- The reset state with DIN written. -/
def withDin (din : Vector Word 4) : State := { State.reset with din := din }

/-- The reset state keyed for V, with DIN written. -/
def keyedWith (V : Variant) (key : Vector Word 8) (din : Vector Word 4) : State :=
  { State.reset with key := key, rk := scheduleRam V key, variant := some V, din := din }

/-- The reset state with a word in the command slot. -/
def holding (v : Word) : State := { State.reset with pending := some v }

/-- The key bytes of V2 (95, section 1.1). -/
def keyV2 : Vector Word 8 := #v[0x1b1a1918, 0x13121110, 0x0b0a0908, 0x03020100, 0, 0, 0, 0]
/-- The key bytes of V4 (95, section 1.1). -/
def keyV4 : Vector Word 8 := #v[0x17161514, 0x13121110, 0x0f0e0d0c, 0x0b0a0908, 0x07060504, 0x03020100, 0, 0]

/-! ## WellFormed refuses what has no encoding (R83, R89: an assembler refuses n > 63) -/

theorem test_wf_keysetup_refuses_64 : (Instr.keysetup .w64 64).wellFormed = false := by decide
theorem test_wf_roli_refuses_64 : (Instr.roli .w32 64).wellFormed = false := by decide
theorem test_wf_rori_refuses_64 : (Instr.rori .w64 64).wellFormed = false := by decide
theorem test_wf_accepts_63 : (Instr.roli .w32 63).wellFormed = true := by decide

/-! ## Decoding: words written out from the fields of R81 (RSV2, IMM6, RSV1, W, RSV0, OP) -/

theorem test_decode_nop : decode 0b0000000000_000000_0000000_0_0000_0000 = .ok .nop := by decide
theorem test_decode_keysetup : decode 0b0000000000_011000_0000000_1_0000_0001 = .ok (.keysetup .w64 24) := by decide
theorem test_decode_encrypt : decode 0b0000000000_000000_0000000_0_0000_0010 = .ok .encrypt := by decide
theorem test_decode_decrypt : decode 0b0000000000_000000_0000000_0_0000_0011 = .ok .decrypt := by decide
theorem test_decode_roli : decode 0b0000000000_111111_0000000_1_0000_0100 = .ok (.roli .w64 63) := by decide
theorem test_decode_rori : decode 0b0000000000_001000_0000000_0_0000_0101 = .ok (.rori .w32 8) := by decide
theorem test_decode_rolv : decode 0b0000000000_000000_0000000_1_0000_0110 = .ok (.rolv .w64) := by decide
theorem test_decode_rorv : decode 0b0000000000_000000_0000000_0_0000_0111 = .ok (.rorv .w32) := by decide
theorem test_decode_fmix : decode 0b0000000000_000000_0000000_1_0000_1000 = .ok (.fmix .w64) := by decide
theorem test_decode_zeroize : decode 0b0000000000_000000_0000000_0_0000_1001 = .ok .zeroize := by decide
theorem test_decode_reserved_opcode : decode 0x0000000A = .error .reservedOpcode := by decide
theorem test_decode_rsv2_bit_22 : decode 0x00400004 = .error .reservedBits := by decide
theorem test_decode_rsv1_bit_9 : decode 0x00000202 = .error .reservedBits := by decide
theorem test_decode_w_on_zeroize : decode 0x00000109 = .error .unusedFieldSet := by decide
theorem test_decode_imm_on_rolv : decode 0x00010006 = .error .unusedFieldSet := by decide
/-- The encodings of R89. -/
theorem test_encode_words :
    [Instr.nop, .keysetup .w32 12, .keysetup .w64 32, .encrypt, .decrypt, .roli .w64 63, .rori .w64 8, .rolv .w32, .rorv .w64,
      .fmix .w64, .zeroize].map encode =
    [0x00000000, 0x000C0001, 0x00200101, 0x00000002, 0x00000003, 0x003F0104, 0x00080105, 0x00000006, 0x00000107, 0x00000108,
      0x00000009] := by decide
/-- R89: a suffix on a command that takes none, a width suffix on KEYSETUP, and n > 63 are refused. -/
theorem test_assembler_refuses :
    [AsmLine.mk .nop (some .s32) none, ⟨.keysetup, some .s32, some 12⟩, ⟨.roli, some .s32, some 64⟩,
      ⟨.encrypt, none, some 0⟩].map assemble = [none, none, none, none] := by decide

/-- R89: `KEYSETUP.128 #24`, its number in hex, is 0x00180101. -/
theorem test_assembler_text :
    assembleText ['K', 'E', 'Y', 'S', 'E', 'T', 'U', 'P', '.', '1', '2', '8', ' ', '#', '0', 'x', '1', '8'] =
      some 0x00180101 := by decide
/-- R89: `#n` on a command that takes none is refused. -/
theorem test_assembler_text_refuses : assembleText ['N', 'O', 'P', ' ', '#', '1'] = none := by decide

/-- P2: `n <- n - 1` with n = 3. -/
theorem test_host_assign :
    hostTurn (programOps [.assign "n" (.sub (.var "n") (.lit 1))]) ⟨0, [("n", 3)]⟩ State.reset =
      some (⟨1, [("n", 2), ("n", 3)]⟩, State.reset) := by decide
/-- R90: `if s[1] = 1 goto a` with s = 2 goes to a. -/
theorem test_host_if :
    (hostTurn (programOps [.label "a", .ifGoto (.eq (.slice (.var "s") 1 1) (.lit 1)) "a"]) ⟨1, [("s", 2)]⟩
      State.reset).map (fun x => x.1.pc) = some 0 := by decide
/-- P4: `rd 0x06 -> t` gets a bus error and t = 0. -/
theorem test_host_misaligned_read :
    (hostTurn (programOps [.rd 0x06 "t"]) ⟨0, []⟩ State.reset).map (fun x => x.1) = some ⟨1, [("t", 0)]⟩ := by decide

/-! ## One step of each command -/

/-- S2: `run NOP` leaves DONE alone. -/
theorem test_nop_status : reads (step (holding 0x00000000)) State.statusWord = some 0x00000002 := by decide

/-- V5 shape at W = 1, L = 32 with an all-zero key: k[R-1] (95, section 2.4.3). -/
theorem test_keysetup_last_key :
    reads (step (State.reset.withFetchWord 32 0x00200101)) (fun t => (t.rk[71], t.statusWord, t.roundCount)) =
      some (0x1a87aff74ede4b2a, 0x0000010A, 72) := by decide +kernel
/-- S10: L = 20 fails with KEYLEN and the schedule stays loaded. -/
theorem test_keysetup_keylen :
    reads (exec (.keysetup .w64 20) (keyedWith .simon128_192 keyV4 #v[0, 0, 0, 0])) State.statusWord =
      some 0x0000012A := by decide +kernel

/-- V4, the odd round count (95, section 1.1). -/
theorem test_encrypt_v4 :
    reads (exec .encrypt (keyedWith .simon128_192 keyV4 #v[0x20657265, 0x6874206e, 0x65687720, 0x65626972])) State.dout =
      some #v[0xc4ac61ef, 0xfcdc0d4f, 0x6c9c8d6e, 0x2597b85b] := by decide +kernel
/-- S12: ENCRYPT without a schedule is NOKEY. -/
theorem test_encrypt_nokey : reads (step (holding 0x00000002)) State.statusWord = some 0x00000032 := by decide

/-- V2 read backwards (95, section 1.1). -/
theorem test_decrypt_v2 :
    reads (exec .decrypt (keyedWith .simon64_128 keyV2 #v[0x44c8fc20, 0xb9dfa07a, 7, 7])) State.dout =
      some #v[0x656b696c, 0x20646e75, 0, 0] := by decide +kernel
/-- V4 read backwards. -/
theorem test_decrypt_v4 :
    reads (exec .decrypt (keyedWith .simon128_192 keyV4 #v[0xc4ac61ef, 0xfcdc0d4f, 0x6c9c8d6e, 0x2597b85b])) State.dout =
      some #v[0x20657265, 0x6874206e, 0x65687720, 0x65626972] := by decide +kernel

/-- R106's example, through the decoder. -/
theorem test_roli_32 :
    reads (step { withDin #v[0x80000001, 9, 9, 9] with pending := some 0x00010004 }) State.dout =
      some #v[0x00000003, 0, 0, 0] := by decide
/-- 95, section 2.2.2: amount 32 at w = 64. -/
theorem test_roli_64 :
    reads (exec (.roli .w64 32) (withDin #v[0x01234567, 0x89abcdef, 0, 0])) State.dout =
      some #v[0x89abcdef, 0x01234567, 0, 0] := by decide
/-- R107's example. -/
theorem test_rori_64 :
    reads (exec (.rori .w64 8) (withDin #v[0x01234567, 0x89ABCDEF, 0, 0])) State.dout =
      some #v[0xef012345, 0x6789abcd, 0, 0] := by decide
/-- 95, section 2.2.1: amount 63 at w = 32 is 31. -/
theorem test_rori_32_reduced :
    reads (exec (.rori .w32 63) (withDin #v[0x12345678, 0, 0, 0])) State.dout = some #v[0x2468acf0, 0, 0, 0] := by decide
/-- R108's example: ROTAMT 40 at w = 32 is 8. -/
theorem test_rolv_32 :
    reads (exec (.rolv .w32) { withDin #v[0x12345678, 0, 0, 0] with rotamt := 40 }) State.dout =
      some #v[0x34567812, 0, 0, 0] := by decide
/-- 95, section 2.2.1: ROTAMT 33 at w = 32 is 1. -/
theorem test_rorv_32 :
    reads (exec (.rorv .w32) { withDin #v[0x12345678, 0, 0, 0] with rotamt := 33 }) State.dout =
      some #v[0x091a2b3c, 0, 0, 0] := by decide
/-- 95, section 2.2.2: ROTAMT 63 at w = 64. -/
theorem test_rorv_64 :
    reads (exec (.rorv .w64) { withDin #v[0x80000000, 0x00000001, 0, 0] with rotamt := 63 }) State.dout =
      some #v[0x00000000, 0x00000003, 0, 0] := by decide
/-- R110's two examples. -/
theorem test_fmix_32 :
    reads (exec (.fmix .w32) (withDin #v[0x656B696C, 0, 0, 0])) State.dout = some #v[0xDFEDE5F1, 0, 0, 0] := by decide
theorem test_fmix_64 :
    reads (exec (.fmix .w64) (withDin #v[0x63736564, 0x20737265, 0, 0])) State.dout =
      some #v[0xCFA9D590, 0xC1AFADD7, 0, 0] := by decide
/-- S11: ZEROIZE wipes, and keeps ROTAMT. -/
theorem test_zeroize :
    reads (exec .zeroize { keyedWith .simon64_128 keyV2 #v[1, 2, 3, 4] with rotamt := 5 })
      (fun t => (t.statusWord, t.rk[0], t.key[0], t.din[0], t.rotamt)) = some (0x00000002, 0, 0, 0, 5) := by decide +kernel
/-- S13: a reserved opcode completes with ILLEGAL. -/
theorem test_illegal : reads (step (holding 0x0000000A)) State.statusWord = some 0x00000012 := by decide

/-! ## The register window (95, sections 2.6 and 2.7) -/

/-- S4: a DIN write while busy is dropped. -/
theorem test_dropped_write :
    reads (step { holding 2 with events := [.bus (writeAccess 0x40 5)] }) (fun t => (t.statusWord, t.din[0])) =
      some (0x00000005, 0) := by decide
/-- S14: the acknowledgement clears DONE and keeps ERR. -/
theorem test_ack :
    reads (step { State.reset with done := true, err := 1, events := [.bus (writeAccess 0x08 0x00000002)] }) State.statusWord =
      some 0x00000010 := by decide
/-- A 4-byte read at 0x06 is a bus error and reads 0. -/
theorem test_misaligned_read :
    reads (step { State.reset with events := [.bus (readAccess 0x06)] }) State.rsp = some (some ⟨true, some 0⟩) := by decide
/-- KEY1 is write-only: the write lands and the read gives 0. -/
theorem test_key_write_only :
    reads (step { State.reset with events := [.bus (writeAccess 0x24 0x12345678)] })
      (fun t => (t.key[1], (t.respond (readAccess 0x24)).rdata)) = some (0x12345678, some 0) := by decide
/-- ROTAMT keeps bits 5:0 of 0xFFFFFFC5. -/
theorem test_rotamt_write :
    reads (step { State.reset with events := [.bus (writeAccess 0x10 0xFFFFFFC5)] })
      (fun t => (t.respond (readAccess 0x10)).rdata) = some (some 0x00000005) := by decide

/-! ## Witnesses: the hypotheses of each statement are met together -/

theorem witness_DecodeOfEncodeIsTheCommand : (Instr.keysetup .w64 63).wellFormed = true := by decide
theorem witness_EncodeOfDecodeIsTheWord : decode 0x003F0105 = .ok (.rori .w64 63) := by decide
theorem witness_CommandsMatchMaskAndMatch :
    decode 0x003F0101 = .ok (.keysetup .w64 63) ∧ decode 0x003F0004 = .ok (.roli .w32 63) ∧
    decode 0x00000005 = .ok (.rori .w32 0) ∧ decode 0x00000106 = .ok (.rolv .w64) ∧ decode 0x00000007 = .ok (.rorv .w32) ∧
    decode 0x00000108 = .ok (.fmix .w64) ∧
    (0x003F0101 : Word) &&& 0xFFC0FEFF = 0x00000001 ∧ selectVariant .w64 63 = none := by decide
theorem witness_IllegalWordsCompleteWithIllegal :
    ∃ r, decode 0x0000000F = .error r := ⟨.reservedOpcode, by decide⟩
theorem witness_AssemblerLinesAreTheCommands :
    (Instr.roli .w32 63).wellFormed = true ∧ assemble ⟨.keysetup, some .s128, some 63⟩ = some (.keysetup .w64 63) := by decide
/-- For RotateLeftMovesEveryBit and RotateRightMovesEveryBit. -/
theorem witness_rotation_amounts : 31 < Width.w32.bits ∧ 63 < Width.w64.bits ∧ 0 < Width.w32.bits := by decide
theorem witness_RotationAmountsReduceModuloTheWidth : (64 = 0 ∨ 64 = Width.w64.bits) ∧ 8 ∈ [1, 2, 3, 4, 8] := by decide
theorem witness_MixOfEveryBit : 31 < Width.w32.bits ∧ 63 < Width.w64.bits := by decide
theorem witness_UserKeyWordsAreBigEndian : 3 < Variant.simon128_256.keyWords ∧ 1 < Variant.simon128_128.keyWords := by decide
/-- For ScheduleSeedIsTheKeyReversed, DerivedKeysFollowTheRecurrence, BitTermsHavePeriodSixtyTwo and
ComplementedKeyComplementsTheSchedule: word lists of the right length, for both recurrences, with the first and the last derived index and seed index. -/
theorem witness_schedule_lists :
    (userKey .simon128_192 keyV4).length = Variant.simon128_192.keyWords ∧
    (userKey .simon64_128 keyV2).length = Variant.simon64_128.keyWords ∧
    2 < Variant.simon128_192.keyWords ∧
    (Variant.simon128_192.keyWords ≤ 3 ∧ 3 < Variant.simon128_192.rounds) ∧
    (Variant.simon128_192.keyWords ≤ 68 ∧ 68 < Variant.simon128_192.rounds) ∧
    (Variant.simon128_256.keyWords ≤ 71 ∧ 71 < Variant.simon128_256.rounds) ∧
    65 + Variant.simon128_192.keyWords < Variant.simon128_192.rounds ∧ 3 < Variant.simon128_256.tail.length := by decide
theorem witness_KeysetupSelectsTheVariant :
    ¬ (Width.w32 = .w32 ∧ (24 = 12 ∨ 24 = 16)) ∧ ¬ (Width.w32 = .w64 ∧ (24 = 16 ∨ 24 = 24 ∨ 24 = 32)) := by decide
theorem witness_KeysetupLoadsTheSchedule :
    selectVariant .w32 12 = some .simon64_96 ∧ selectVariant .w64 32 = some .simon128_256 := by decide
theorem witness_FailedKeysetupKeepsTheSchedule :
    ((Width.w32 = .w32 → 17 ≠ 12 ∧ 17 ≠ 16) ∧ (Width.w32 = .w64 → 17 ≠ 16 ∧ 17 ≠ 24 ∧ 17 ≠ 32)) ∧
    ((Width.w64 = .w32 → 12 ≠ 12 ∧ 12 ≠ 16) ∧ (Width.w64 = .w64 → 12 ≠ 16 ∧ 12 ≠ 24 ∧ 12 ≠ 32)) := by decide
/-- Two states whose key buffers differ beyond the first 12 bytes. -/
theorem witness_ScheduleDependsOnTheKeyBytesAlone :
    selectVariant .w32 12 = some .simon64_96 ∧
    (registerBytes keyV2.toList).take 12 = (registerBytes (keyV2.set 3 0).toList).take 12 ∧ keyV2 ≠ keyV2.set 3 0 := by decide
/-- For EncryptCompletes, DecryptCompletes and EncryptThenDecryptRestoresTheBlock. -/
theorem witness_loaded_variant :
    (keyedWith .simon64_96 keyV2 #v[1, 2, 3, 4]).variant = some .simon64_96 ∧ Variant.simon64_96.width = .w32 ∧
    (keyedWith .simon128_192 keyV4 #v[1, 2, 3, 4]).variant = some .simon128_192 := ⟨rfl, rfl, rfl⟩
theorem witness_BlockCommandsWithoutKeyAnswerNokey :
    State.reset.variant = none ∧ Instr.encrypt ∈ [Instr.encrypt, .decrypt] ∧ Instr.decrypt ∈ [Instr.encrypt, .decrypt] := by
  decide
theorem witness_CmdWriteIsAcceptedOrDropped :
    (∃ s : State, s.events = [.bus (writeAccess 0x0C 7)] ∧ s.pending = none) ∧
    (∃ s : State, s.events = [.bus (writeAccess 0x0C 7)] ∧ s.pending ≠ none) :=
  ⟨⟨{ State.reset with events := [.bus (writeAccess 0x0C 7)] }, rfl, rfl⟩,
   ⟨{ holding 2 with events := [.bus (writeAccess 0x0C 7)] }, rfl, by simp [holding]⟩⟩
theorem witness_StepRunsTheDecodedCommand :
    ((holding 0x00000009).pending = some 0x00000009 ∧ decode 0x00000009 = .ok .zeroize ∧ (holding 0x00000009).coreNext) ∧
    (State.reset.pending = none ∧ State.reset.coreNext) ∧
    decodeTableWord 32 0x00000009 = some .zeroize :=
  ⟨⟨rfl, by decide, .inl rfl⟩, ⟨rfl, .inl rfl⟩, by decide⟩
/-- The core's turn as the head of the list, for EveryCompletionCommits and InterruptFollowsDoneAndEnable. -/
theorem witness_completion :
    ((holding 0x00000003).setEvents [.core]).pending = some 0x00000003 ∧
    ((holding 0x00000003).setEvents [.core]).coreNext := ⟨rfl, .inr ⟨[], rfl⟩⟩
theorem witness_ErrorCommitChangesStatusAlone :
    (∃ r, decode 0x80000002 = .error r) ∧
    (decode 0x000D0001 = .ok (.keysetup .w32 13) ∧ selectVariant .w32 13 = none) ∧
    (decode 0x00000003 = .ok .decrypt ∧ State.reset.variant = none) ∧
    complete 0x00000003 State.reset = .next (State.reset.completeError .nokey) ∧
    (State.reset.completeError .nokey).err ≠ 0 :=
  ⟨⟨.reservedBits, by decide⟩, by decide, by decide, rfl, by decide⟩
theorem witness_OperandsStayFixedWhileBusy :
    (holding 0x00000002).pending = some 0x00000002 ∧ (holding 0x00000002).done = false := ⟨rfl, rfl⟩
theorem witness_RunCompletesTheCommand :
    ∃ s : State, (Instr.keysetup .w32 63).wellFormed = true ∧ s.pending = none ∧
      s.events = runEvents (.keysetup .w32 63) 2 ++ [] :=
  ⟨State.reset.setEvents (runEvents (.keysetup .w32 63) 2 ++ []), by decide, rfl, rfl⟩
theorem witness_HostStatementsActThroughTheBus :
    (programOps [.run .nop, .goto "a"])[1]? = some .poll ∧
    (⟨1, []⟩ : HostState).access .poll = some (readAccess 0x08) ∧
    (programOps [.run .nop, .goto "a"])[2]? = some (.goto "a") ∧ (⟨2, []⟩ : HostState).access (.goto "a") = none ∧
    (∃ h u, hostTurn (programOps [.label "a"]) ⟨0, []⟩ State.reset = some (h, u)) :=
  ⟨by decide, rfl, by decide, rfl, ⟨_, _, rfl⟩⟩
theorem witness_WaitEndsAfterTheCompletion :
    (programOps [.run .nop])[(⟨1, []⟩ : HostState).pc]? = some .poll ∧ (holding 0x00000000).pending = some 0x00000000 :=
  ⟨by decide, rfl⟩
theorem witness_PendingCommandComesToAnEnd :
    ∃ s : State, s.pending = some 0x00000002 ∧ s.events = [.bus (readAccess 0x08), .core] ∧
      ∀ e ∈ s.events, e.lawful = true :=
  ⟨(holding 0x00000002).setEvents [.bus (readAccess 0x08), .core], rfl, rfl, by decide⟩
theorem witness_HostStepPerformsOneAccess : ∃ s : State, s.events = [.bus ⟨true, 0x0C, 2, 0⟩] :=
  ⟨State.reset.setEvents [.bus ⟨true, 0x0C, 2, 0⟩], rfl⟩
theorem witness_IllegalAccessGetsABusError :
    (State.reset.respond ⟨true, 0x0C, 2, 0⟩).err = true ∧ (State.reset.respond ⟨false, 0xFF, 4, 0⟩).err = true ∧
    (Access.mk false 0xFF 4 0).we = false := by decide
/-- For ReservedOffsetsReadZeroAndIgnoreWrites, ReadsReturnTheRegister and WritesTakeEffectOrAreDropped. -/
theorem witness_reserved_offsets :
    ((0x1C : BitVec 8).toNat % 4 = 0 ∧ ((0x1C : BitVec 8) = 0x1C ∨ 0x60 ≤ (0x1C : BitVec 8).toNat)) ∧
    ((0x60 : BitVec 8).toNat % 4 = 0 ∧ ((0x60 : BitVec 8) = 0x1C ∨ 0x60 ≤ (0x60 : BitVec 8).toNat)) ∧
    ((0xFC : BitVec 8).toNat % 4 = 0 ∧ ((0xFC : BitVec 8) = 0x1C ∨ 0x60 ≤ (0xFC : BitVec 8).toNat)) := by decide
theorem witness_ReadsReturnTheRegister : (readAccess 0x5C).we = false ∧ (0x5C : BitVec 8).toNat % 4 = 0 := by decide
/-- A read-only offset, and the bounds of the droppable ones, for WritesTakeEffectOrAreDropped and the priority rule. -/
theorem witness_write_offsets :
    ((0x5C : BitVec 8).toNat % 4 = 0 ∧ (0x5C : BitVec 8) ∈ [0x00, 0x14, 0x18, 0x1C, 0x50, 0x54, 0x58, (0x5C : BitVec 8)]) ∧
    (0xFC : BitVec 8).toNat % 4 = 0 ∧ 0x60 ≤ (0xFC : BitVec 8).toNat := by decide
theorem witness_ConditionsHaveTheirPriority :
    ((1 : BitVec 4) ≠ 4 ∨ (0x0E : BitVec 8).toNat % 4 ≠ 0) ∧
    ((holding 0).pending ≠ none ∧ (0x4C : BitVec 8).toNat % 4 = 0 ∧ 0x20 ≤ (0x4C : BitVec 8).toNat ∧
      (0x4C : BitVec 8).toNat < 0x50) ∧
    decode 0x00000010 = .error .reservedBits ∧
    (decode 0x00140001 = .ok (.keysetup .w32 20) ∧ selectVariant .w32 20 = none) ∧
    (decode 0x00000002 = .ok .encrypt ∧ State.reset.variant = none) ∧ decode 0x00000000 = .ok .nop := by decide
theorem witness_IdAndCapAreConstant : (0x18 : BitVec 8) ∈ [(0x00 : BitVec 8), 0x18] := by decide
theorem witness_RotamtKeepsSixBits : State.reset.pending = none ∧ (holding 0).pending ≠ none := by decide
theorem witness_RoundsReadsTheLoadedVariant : (State.reset.respond (readAccess 0x14)).rdata = some 0 := by decide
theorem witness_WindowIsTwoHundredFiftySixBytes :
    (Config.Platform.mk 0x40000100).Aligned ∧ windowOffset ⟨0x40000100⟩ 0x400001FF = some 0xFF ∧
    windowOffset ⟨0x40000100⟩ 0x40000200 = none := by decide
/-- An FMIX whose result differs from the DOUT before it. -/
theorem witness_DoutChangesOnlyAtACompletion :
    ∃ s t : State, step s = .next t ∧ t.dout ≠ s.dout :=
  ⟨{ withDin #v[1, 0, 0, 0] with pending := some 0x00000008 }, _, rfl, by decide⟩
/-- A ZEROIZE of a keyed core. -/
theorem witness_ScheduleChangesOnlyByKeysetupZeroizeReset :
    ∃ s t : State, step s = .next t ∧ (t.rk ≠ s.rk ∨ t.variant ≠ s.variant) :=
  ⟨{ keyedWith .simon64_96 keyV2 #v[0, 0, 0, 0] with pending := some 0x00000009 }, _, rfl, .inr (by decide)⟩
/-- Two states that differ in the key buffer. -/
theorem witness_AccessesNeverTellTheSecrets :
    SameButSecrets State.reset { State.reset with key := keyV2 } ∧ State.reset ≠ { State.reset with key := keyV2 } :=
  ⟨rfl, by decide⟩
theorem witness_InterruptFollowsDoneAndEnable :
    (0x00000002 : Word).getLsbD 1 = true ∧ State.reset.pending = none ∧ (0x00000000 : Word).getLsbD 0 = false ∧
    (0x00000001 : Word).getLsbD 0 = true := by decide
theorem witness_ResetLeavesTheStatedValues : (0xFC : BitVec 8).toNat % 4 = 0 ∧ (0x00 : BitVec 8).toNat % 4 = 0 := by decide
theorem witness_ResetAbandonsThePendingCommand :
    (∃ s : State, s.events = [.rst none] ∧ s.pending = some 0x00000002) ∧
    (∃ s t : State, s.pending = some 0x00000000 ∧ step s = .next t) :=
  ⟨⟨(holding 0x00000002).setEvents [.rst none], rfl, rfl⟩, ⟨holding 0x00000000, _, rfl, rfl⟩⟩
/-- A busy core in the invariant, and its step. -/
theorem witness_InvariantKeptByEveryStep : ∃ t, (holding 0x00000000).Inv ∧ step (holding 0x00000000) = .next t :=
  ⟨_, ⟨fun _ => ⟨rfl, rfl⟩, by decide, rfl⟩, rfl⟩

end Sys2Proof.Tests
end

section
/-! SUPPORT. Shared facts for the statements of 10_state.md: the busy flag, completions inverted, reads at reset. -/

namespace Sys2Proof.Machine

variable {s s' t t' : State} {v : Word}

theorem State.busy_iff_ne_none : s.busy = true ↔ s.pending ≠ none := Option.isSome_iff_ne_none

/-- Everything the completion of a word can have done, by the word's decoding (R191, R192). -/
theorem complete_eq_next_cases (h : complete v s = .next t) :
    (∃ e, t = s.completeError e) ∨
    (decode v = .ok .nop ∧ t = s.completeOk) ∨
    (decode v = .ok .zeroize ∧ t = s.wipe.completeOk) ∨
    (∃ w len V, decode v = .ok (.keysetup w len) ∧ selectVariant w len = some V ∧
      t = (s.loadSchedule V (scheduleRam V s.key)).completeOk) ∨
    (∃ i d, decode v = .ok i ∧ i ≠ .nop ∧ (∀ w len, i ≠ .keysetup w len) ∧ t = (s.writeDout d).completeOk) := by
  obtain ⟨e, he⟩ | ⟨i, hdec, hexec⟩ := complete_cases v s
  · exact .inl ⟨e, Host.Outcome.next.inj (h.symm.trans he)⟩
  · have next_eq {u} (hu : exec i s = .next u) : t = u :=
      Host.Outcome.next.inj (h.symm.trans (hexec.trans hu))
    obtain ⟨e, hu⟩ | ⟨rfl, hu⟩ | ⟨rfl, hu⟩ | ⟨w, len, V, rfl, hV, hu⟩ | ⟨d, ⟨hnop, -, hks⟩, hu⟩ := exec_cases i s
    · exact .inl ⟨e, next_eq hu⟩
    · exact .inr (.inl ⟨hdec, next_eq hu⟩)
    · exact .inr (.inr (.inl ⟨hdec, next_eq hu⟩))
    · exact .inr (.inr (.inr (.inl ⟨w, len, V, hdec, hV, next_eq hu⟩)))
    · exact .inr (.inr (.inr (.inr ⟨i, d, hdec, hnop, hks, next_eq hu⟩)))

/-- What a register reads after reset (R38). -/
theorem State.reset_readReg (r : Reg) :
    State.reset.readReg r = if r = .id then idValue else if r = .cap then capValue else 0 := by
  cases r with
  | din j | dout j => simp [State.readReg, State.reset]
  | id | cfg | status | cmd | rotamt | rounds | cap | key _ | reserved => rfl

theorem regAt_eq_id_iff {off : BitVec 8} (h4 : off.toNat % 4 = 0) : regAt off = .id ↔ off = 0x00 := by
  revert off; decide

theorem regAt_eq_cap_iff {off : BitVec 8} (h4 : off.toNat % 4 = 0) : regAt off = .cap ↔ off = 0x18 := by
  revert off; decide

theorem State.roundCount_lt (s : State) : s.roundCount < 128 := by
  unfold State.roundCount
  cases s.variant with
  | none => decide
  | some V => cases V <;> decide

end Sys2Proof.Machine
end

section
/-! PROOF. No host access tells the key buffer or the round keys (R28, R55, R68). -/

namespace Sys2Proof.Machine

variable {s s' t t' : State}

/-- The second state is the first with some key buffer and some RAM in their places. -/
theorem sameButSecrets_iff : SameButSecrets s t ↔ ∃ key rk, t = { s with key := key, rk := rk } := by
  constructor
  · exact fun h => ⟨_, _, h⟩
  · rintro ⟨key, rk, rfl⟩
    rfl

/-- KEYj reads 0 and no register shows the RAM, so no read looks at a secret (R28, R55). -/
theorem SameButSecrets.readReg_eq (h : SameButSecrets s t) (r : Reg) : s.readReg r = t.readReg r := by
  obtain ⟨key, rk, rfl⟩ := sameButSecrets_iff.mp h
  cases r <;> rfl

theorem SameButSecrets.respond_eq (h : SameButSecrets s t) (a : Access) : s.respond a = t.respond a := by
  simp only [State.respond, h.readReg_eq]

theorem SameButSecrets.busy_eq (h : SameButSecrets s t) : s.busy = t.busy := by
  obtain ⟨key, rk, rfl⟩ := sameButSecrets_iff.mp h
  rfl

theorem SameButSecrets.dropWrite (h : SameButSecrets s t) : SameButSecrets s.dropWrite t.dropWrite := by
  obtain ⟨key, rk, rfl⟩ := sameButSecrets_iff.mp h
  rfl

/-- Whether a write is dropped does not depend on a secret (R56). -/
theorem SameButSecrets.unlessBusy (h : SameButSecrets s t) (h' : SameButSecrets s' t') :
    SameButSecrets (s.unlessBusy s') (t.unlessBusy t') := by
  have hbusy := h.busy_eq
  cases hb : s.busy with
  | true =>
    rw [State.unlessBusy_of_busy _ hb, State.unlessBusy_of_busy _ (hbusy.symm.trans hb)]
    exact h.dropWrite
  | false =>
    rw [State.unlessBusy_of_idle _ hb, State.unlessBusy_of_idle _ (hbusy.symm.trans hb)]
    exact h'

/-- A droppable write, acceptance among them, keeps the relation as `unlessBusy` does; no other write looks at a secret. -/
theorem SameButSecrets.writeReg (h : SameButSecrets s t) (v : Word) (r : Reg) :
    SameButSecrets (s.writeReg v r) (t.writeReg v r) := by
  have hsame := h
  obtain ⟨key, rk, rfl⟩ := sameButSecrets_iff.mp h
  cases r with
  | cmd | rotamt | key _ | din _ => exact hsame.unlessBusy rfl
  | id | cfg | status | rounds | cap | dout _ | reserved => rfl

theorem SameButSecrets.busAccess (h : SameButSecrets s t) (a : Access) :
    SameButSecrets (s.busAccess a) (t.busAccess a) := by
  have hafter : SameButSecrets (s.afterAccess a) (t.afterAccess a) := by
    unfold State.afterAccess
    split
    · exact h.writeReg a.wdata (regAt a.off)
    · exact h
  obtain ⟨key, rk, hsecrets⟩ := sameButSecrets_iff.mp hafter
  simp only [State.busAccess, h.respond_eq, hsecrets]
  rfl

/-- Settles O54: the relation is kept by one access, and the responses agree, so by induction on the accesses. -/
theorem accessesNeverTellTheSecrets : Obligations.AccessesNeverTellTheSecrets := by
  intro as
  induction as with
  | nil => exact fun s t h => ⟨rfl, h⟩
  | cons a as ih =>
    intro s t h
    obtain ⟨hresponses, hsame⟩ := ih _ _ (h.busAccess a)
    exact ⟨congrArg₂ List.cons (h.respond_eq a) hresponses, hsame⟩

end Sys2Proof.Machine
end

section
/-! PROOF. The invariant: it holds at reset, and every host access, completion and reset keeps it (R24, R31, R32, R211). -/

namespace Sys2Proof.Machine

variable {s t : State} {v : Word}

theorem State.ScheduleHeld.congr (h : s.ScheduleHeld) (hvariant : t.variant = s.variant) (hrk : t.rk = s.rk) :
    t.ScheduleHeld := by
  unfold State.ScheduleHeld at h ⊢
  rw [hvariant, hrk]
  exact h

/-- What leaves the slot, ERR and the schedule alone and does not set DONE keeps the invariant. -/
theorem State.Inv.of_same_slot (hs : s.Inv) (hpending : t.pending = s.pending) (hdone : s.done = false → t.done = false)
    (herr : t.err = s.err) (hvariant : t.variant = s.variant) (hrk : t.rk = s.rk) : t.Inv where
  slot hbusy := by
    obtain ⟨hd, he⟩ := hs.slot (by rwa [State.busy, hpending] at hbusy)
    exact ⟨hdone hd, herr.trans he⟩
  errCode := herr ▸ hs.errCode
  schedule := hs.schedule.congr hvariant hrk

/-- An acknowledgement never sets DONE (R219). -/
theorem State.writeOneToClear_done_of_clear (v : Word) (h : s.done = false) : (s.writeOneToClear v).done = false := by
  simp [h]

theorem State.Inv.setEvents (hs : s.Inv) (es : List Event) : (s.setEvents es).Inv :=
  hs.of_same_slot rfl id rfl rfl rfl

/-- A freshly taken command starts with DONE and ERR clear (R190). -/
theorem State.Inv.takeCommand (hs : s.Inv) (v : Word) : (s.takeCommand v).Inv where
  slot _ := ⟨rfl, rfl⟩
  errCode := Nat.zero_le 3
  schedule := hs.schedule.congr rfl rfl

theorem State.Inv.writeReg (hs : s.Inv) (v : Word) (r : Reg) : (s.writeReg v r).Inv := by
  obtain h | ⟨-, h⟩ | ⟨-, h⟩ | ⟨-, h⟩ | ⟨-, -, h⟩ | ⟨-, -, h⟩ | ⟨-, j, -, h⟩ | ⟨-, j, -, h⟩ :=
    State.writeReg_cases v s r <;> rw [h]
  · exact hs
  · exact hs.of_same_slot rfl id rfl rfl rfl
  · exact hs.of_same_slot rfl (State.writeOneToClear_done_of_clear v) rfl rfl rfl
  · exact hs.of_same_slot rfl id rfl rfl rfl
  · exact hs.takeCommand v
  · exact hs.of_same_slot rfl id rfl rfl rfl
  · exact hs.of_same_slot rfl id rfl rfl rfl
  · exact hs.of_same_slot rfl id rfl rfl rfl

theorem State.Inv.busAccess (hs : s.Inv) (a : Access) : (s.busAccess a).Inv := by
  have hafter : (s.afterAccess a).Inv := by
    obtain h | ⟨-, -, h⟩ := s.afterAccess_cases a <;> rw [h]
    · exact hs
    · exact hs.writeReg _ _
  exact hafter.of_same_slot rfl id rfl rfl rfl

/-- A commit empties the slot, so only its code and the schedule count (R191). -/
theorem State.ScheduleHeld.inv_commit (h : s.ScheduleHeld) {code : BitVec 4} (hcode : code.toNat ≤ 3) :
    (s.commit code).Inv where
  slot hbusy := absurd hbusy Bool.false_ne_true
  errCode := hcode
  schedule := h.congr rfl rfl

theorem State.ScheduleHeld.inv_completeOk (h : s.ScheduleHeld) : s.completeOk.Inv :=
  h.inv_commit (Nat.zero_le 3)

theorem CmdError.code_le (e : CmdError) : e.code.toNat ≤ 3 := by
  cases e <;> decide

theorem State.wipe_scheduleHeld (s : State) : s.wipe.ScheduleHeld := rfl

theorem State.loadSchedule_scheduleHeld (V : Variant) (key : Vector Word 8) (s : State) :
    (s.loadSchedule V (scheduleRam V key)).ScheduleHeld := ⟨key, rfl⟩

theorem State.Inv.complete (hs : s.Inv) (h : complete v s = .next t) : t.Inv := by
  obtain ⟨e, rfl⟩ | ⟨-, rfl⟩ | ⟨-, rfl⟩ | ⟨w, len, V, -, -, rfl⟩ | ⟨i, d, -, -, -, rfl⟩ := complete_eq_next_cases h
  · exact hs.schedule.inv_commit e.code_le
  · exact hs.schedule.inv_completeOk
  · exact s.wipe_scheduleHeld.inv_completeOk
  · exact (s.loadSchedule_scheduleHeld V s.key).inv_completeOk
  · exact State.ScheduleHeld.inv_completeOk (hs.schedule.congr rfl rfl)

/-- Settles O59: after reset no command is pending, ERR is 0 and the RAM is zero with no variant loaded. -/
theorem invariantHoldsAtReset : Obligations.InvariantHoldsAtReset where
  slot hbusy := absurd hbusy Bool.false_ne_true
  errCode := Nat.zero_le 3
  schedule := rfl

/-- Settles O60: an idle turn, a completion, a host access and a reset each keep the invariant. -/
theorem invariantKeptByEveryStep : Obligations.InvariantKeptByEveryStep := by
  intro s t hs hstep
  obtain ⟨-, -, rfl⟩ | ⟨-, v, -, hcomplete⟩ | ⟨a, es, -, rfl⟩ | ⟨es, -, rfl⟩ := step_cases hstep
  · exact hs.setEvents _
  · exact (hs.setEvents _).complete hcomplete
  · exact (hs.setEvents es).busAccess a
  · exact invariantHoldsAtReset.setEvents _

end Sys2Proof.Machine
end

section
/-! PROOF. What can change DOUT, the round-key RAM and the loaded variant (R30, R31, R32, R169, R245, R246). -/

namespace Sys2Proof.Machine

/-- Settles O52: an idle turn, a host access, an error, a NOP and a KEYSETUP all keep DOUT. -/
theorem doutChangesOnlyAtACompletion : Obligations.DoutChangesOnlyAtACompletion := by
  intro s t hstep hdout
  obtain ⟨-, -, rfl⟩ | ⟨hcore, v, hpending, hcomplete⟩ | ⟨a, es, -, rfl⟩ | ⟨es, hevents, -⟩ := step_cases hstep
  · exact absurd rfl hdout
  · refine .inr ⟨hcore, v, ?_⟩
    obtain ⟨e, rfl⟩ | ⟨-, rfl⟩ | ⟨hdec, rfl⟩ | ⟨w, len, V, -, -, rfl⟩ | ⟨i, d, hdec, hnop, hks, rfl⟩ :=
      complete_eq_next_cases hcomplete
    · exact absurd rfl hdout
    · exact absurd rfl hdout
    · exact ⟨.zeroize, hpending, hdec, nofun, nofun, rfl⟩
    · exact absurd rfl hdout
    · exact ⟨i, hpending, hdec, hnop, hks, rfl⟩
  · exact absurd (by simp) hdout
  · exact .inl ⟨es, hevents⟩

/-- Settles O53: an idle turn, a host access, an error, a NOP and a command that writes DOUT alone keep both. -/
theorem scheduleChangesOnlyByKeysetupZeroizeReset : Obligations.ScheduleChangesOnlyByKeysetupZeroizeReset := by
  intro s t hstep hchange
  have not_kept (hrk : t.rk = s.rk) (hvariant : t.variant = s.variant) : False :=
    hchange.elim (· hrk) (· hvariant)
  obtain ⟨-, -, rfl⟩ | ⟨hcore, v, hpending, hcomplete⟩ | ⟨a, es, -, rfl⟩ | ⟨es, hevents, -⟩ := step_cases hstep
  · exact (not_kept rfl rfl).elim
  · refine .inr ⟨hcore, v, hpending, ?_⟩
    obtain ⟨e, rfl⟩ | ⟨-, rfl⟩ | ⟨hdec, -⟩ | ⟨w, len, V, hdec, hV, rfl⟩ | ⟨i, d, -, -, -, rfl⟩ :=
      complete_eq_next_cases hcomplete
    · exact (not_kept rfl rfl).elim
    · exact (not_kept rfl rfl).elim
    · exact .inl hdec
    · exact .inr ⟨w, len, V, hdec, hV, rfl⟩
    · exact (not_kept rfl rfl).elim
  · exact (not_kept (by simp) (by simp)).elim
  · exact .inl ⟨es, hevents⟩

end Sys2Proof.Machine
end

section
/-! PROOF. The single registers: ID and CAP, ROTAMT, ROUNDS, and every register after reset (R22, R26, R27, R36, R38). -/

namespace Sys2Proof.Machine

/-- Settles O48: both offsets reach a constant register, whose write is ignored. -/
theorem idAndCapAreConstant : Obligations.IdAndCapAreConstant := by
  intro s v off hoff
  have h4 : off.toNat % 4 = 0 := by revert off; decide
  rw [respond_readAccess h4, respond_readAccess h4, afterAccess_writeAccess h4]
  obtain rfl | rfl : off = 0x00 ∨ off = 0x18 := by simpa using hoff
  · rw [regAt_id]
    exact ⟨rfl, rfl, rfl⟩
  · rw [regAt_cap]
    exact ⟨rfl, rfl, rfl⟩

/-- Keeping bits 5:0 and reading them back zero-extended is the mask 0x3F (R26). -/
theorem setWidth_setWidth_six (v : Word) : (v.setWidth 6).setWidth 32 = v &&& 0x3F := by
  apply BitVec.eq_of_toNat_eq
  have hmask : (v &&& 0x3F).toNat = v.toNat % 2 ^ 6 := Nat.and_two_pow_sub_one_eq_mod v.toNat 6
  rw [hmask, BitVec.toNat_setWidth, BitVec.toNat_setWidth]
  omega

/-- A write to ROTAMT is a droppable write of its six bits (R26, R56). -/
theorem afterAccess_write_rotamt (s : State) (v : Word) :
    s.afterAccess (writeAccess 0x10 v) = s.unlessBusy { s with rotamt := v.setWidth 6 } := by
  rw [afterAccess_writeAccess (by decide), regAt_rotamt]
  rfl

/-- Settles O49, clause by clause: an idle write, a busy write, reset, ZEROIZE, and the amount of ROLV and RORV. -/
theorem rotamtKeepsSixBits : Obligations.RotamtKeepsSixBits := by
  refine ⟨fun s v hidle => ?_, fun s v hbusy => ?_, rfl, fun s => ⟨_, exec_zeroize, rfl⟩, fun w s => ⟨?_, ?_⟩⟩
  · rw [afterAccess_write_rotamt, State.unlessBusy_of_idle _ (State.not_busy_iff.mpr hidle),
      respond_readAccess (by decide), regAt_rotamt]
    exact ⟨congrArg some (setWidth_setWidth_six v), BitVec.toNat_setWidth 6 v⟩
  · rw [afterAccess_write_rotamt, State.unlessBusy_of_busy _ (State.busy_iff_ne_none.mpr hbusy)]
    rfl
  · rw [exec_rolv, exec_roli]
  · rw [exec_rorv, exec_rori]

/-- A read of ROUNDS gives R of the loaded variant, or 0 (R27). -/
theorem respond_read_rounds (s : State) :
    (s.respond (readAccess 0x14)).rdata = some (BitVec.ofNat 32 s.roundCount) := by
  rw [respond_readAccess (by decide), regAt_rounds]
  rfl

theorem extractLsb'_ofNat_eq_zero {n : Nat} (hn : n < 128) : (BitVec.ofNat 32 n).extractLsb' 7 25 = 0 := by
  apply BitVec.eq_of_toNat_eq
  simp only [BitVec.extractLsb'_toNat, BitVec.toNat_ofNat, Nat.shiftRight_eq_div_pow, BitVec.ofNat_eq_ofNat]
  omega

/-- Settles O50: one value a variant, all below 2^7, and a write that is ignored. -/
theorem roundsReadsTheLoadedVariant : Obligations.RoundsReadsTheLoadedVariant := by
  intro s
  refine ⟨?_, fun r hr => ?_, fun v => ?_, respond_read_rounds State.reset⟩
  · rw [respond_read_rounds, State.roundCount]
    cases s.variant with
    | none => rfl
    | some V => cases V <;> rfl
  · obtain rfl : BitVec.ofNat 32 s.roundCount = r := Option.some.inj ((respond_read_rounds s).symm.trans hr)
    exact extractLsb'_ofNat_eq_zero s.roundCount_lt
  · rw [afterAccess_writeAccess (by decide), regAt_rounds]
    rfl

/-- Settles O56: the fields are those of the reset record, and the reads follow from `State.reset_readReg`. -/
theorem resetLeavesTheStatedValues : Obligations.ResetLeavesTheStatedValues := by
  refine ⟨rfl, rfl, rfl, rfl, rfl, rfl, rfl, fun j => ?_, fun j => ⟨?_, ?_⟩, fun i => ?_, fun off h4 => ?_⟩
  · simp [State.reset]
  · simp [State.reset]
  · simp [State.reset]
  · simp [State.reset]
  · rw [respond_readAccess h4, State.reset_readReg]
    simp only [regAt_eq_id_iff h4, regAt_eq_cap_iff h4, idValue, capValue]

end Sys2Proof.Machine
end

section
/-! PROOF. What the host does while the core is busy does not reach the pending command (R62, R244, R249). -/

namespace Sys2Proof.Machine

variable {s t : State} {v : Word}

/-! ## The operands of a command -/

/-- Two states with the same command in the slot and the same operands for it: they differ at most in CFG.IE, in the DONE,
OVR and ERR flags and on the ports. DOUT is among them, since a failed command leaves it as its result (R192). -/
structure SameOperands (s t : State) : Prop extends SameInputs s t where
  pending : t.pending = s.pending
  rotamt  : t.rotamt = s.rotamt
  dout    : t.dout = s.dout

/-- Two states in which a command has ended with the same result. -/
structure SameResult (s t : State) : Prop extends SameInputs s t where
  dout    : t.dout = s.dout
  err     : t.err = s.err
  done    : t.done = s.done
  pending : t.pending = s.pending

theorem SameOperands.refl (s : State) : SameOperands s s := ⟨⟨rfl, rfl, rfl, rfl⟩, rfl, rfl, rfl⟩

theorem SameOperands.setRsp (r : Response) (s : State) : SameOperands s (s.setRsp r) :=
  ⟨⟨rfl, rfl, rfl, rfl⟩, rfl, rfl, rfl⟩

theorem SameOperands.trans {u : State} (h : SameOperands s t) (h' : SameOperands t u) : SameOperands s u where
  variant := h'.variant.trans h.variant
  rk      := h'.rk.trans h.rk
  key     := h'.key.trans h.key
  din     := h'.din.trans h.din
  pending := h'.pending.trans h.pending
  rotamt  := h'.rotamt.trans h.rotamt
  dout    := h'.dout.trans h.dout

/-! ## A completion depends on the operands alone -/

theorem SameOperands.commit (h : SameOperands s t) (code : BitVec 4) : SameResult (s.commit code) (t.commit code) :=
  ⟨⟨h.variant, h.rk, h.key, h.din⟩, h.dout, rfl, rfl, rfl⟩

theorem SameOperands.completeOk (h : SameOperands s t) : SameResult s.completeOk t.completeOk := h.commit 0

theorem SameOperands.completeError (h : SameOperands s t) (e : CmdError) :
    SameResult (s.completeError e) (t.completeError e) := h.commit e.code

theorem SameOperands.writeDout (h : SameOperands s t) (d : Vector Word 4) :
    SameOperands (s.writeDout d) (t.writeDout d) :=
  ⟨⟨h.variant, h.rk, h.key, h.din⟩, h.pending, h.rotamt, rfl⟩

theorem SameOperands.wipe (h : SameOperands s t) : SameOperands s.wipe t.wipe :=
  ⟨⟨rfl, rfl, rfl, rfl⟩, h.pending, h.rotamt, rfl⟩

theorem SameOperands.loadSchedule (h : SameOperands s t) (V : Variant) (rk : Vector (BitVec 64) 72) :
    SameOperands (s.loadSchedule V rk) (t.loadSchedule V rk) :=
  ⟨⟨rfl, rfl, h.key, h.din⟩, h.pending, h.rotamt, h.dout⟩

theorem SameOperands.blockCommand (h : SameOperands s t) (f) :
    SameResult (blockCommand f s) (blockCommand f t) := by
  cases hs : s.variant with
  | none =>
    rw [blockCommand_of_none hs, blockCommand_of_none (h.variant.trans hs)]
    exact h.completeError .nokey
  | some V =>
    rw [blockCommand_of_some hs, blockCommand_of_some (h.variant.trans hs), h.rk, h.din]
    exact (h.writeDout _).completeOk

theorem SameOperands.wordCommand (h : SameOperands s t) (w : Width) (op : BitVec w.bits → BitVec w.bits) :
    SameResult (wordCommand w op s) (wordCommand w op t) := by
  simp only [Machine.wordCommand, h.din]
  exact (h.writeDout _).completeOk

theorem SameOperands.exec (h : SameOperands s t) (i : Instr) :
    ∃ s' t', exec i s = .next s' ∧ exec i t = .next t' ∧ SameResult s' t' := by
  cases i with
  | nop => exact ⟨_, _, exec_nop, exec_nop, h.completeOk⟩
  | zeroize => exact ⟨_, _, exec_zeroize, exec_zeroize, h.wipe.completeOk⟩
  | keysetup w len =>
    cases hV : selectVariant w len with
    | none => exact ⟨_, _, exec_keysetup_of_none hV, exec_keysetup_of_none hV, h.completeError .keylen⟩
    | some V =>
      refine ⟨_, _, exec_keysetup_of_some hV, exec_keysetup_of_some hV, ?_⟩
      rw [h.key]
      exact (h.loadSchedule V _).completeOk
  | encrypt => exact ⟨_, _, exec_encrypt, exec_encrypt, h.blockCommand _⟩
  | decrypt => exact ⟨_, _, exec_decrypt, exec_decrypt, h.blockCommand _⟩
  | roli w k => exact ⟨_, _, exec_roli, exec_roli, h.wordCommand w _⟩
  | rori w k => exact ⟨_, _, exec_rori, exec_rori, h.wordCommand w _⟩
  | rolv w => exact ⟨_, _, exec_rolv, exec_rolv, h.rotamt ▸ h.wordCommand w _⟩
  | rorv w => exact ⟨_, _, exec_rorv, exec_rorv, h.rotamt ▸ h.wordCommand w _⟩
  | fmix w => exact ⟨_, _, exec_fmix, exec_fmix, h.wordCommand w _⟩

theorem SameOperands.complete (h : SameOperands s t) (v : Word) :
    ∃ s' t', complete v s = .next s' ∧ complete v t = .next t' ∧ SameResult s' t' := by
  cases hdec : decode v with
  | ok i =>
    rw [complete_of_ok hdec, complete_of_ok hdec]
    exact h.exec i
  | error r => exact ⟨_, _, complete_of_error hdec, complete_of_error hdec, h.completeError .illegal⟩

/-! ## Accesses while busy -/

/-- Everything an access can do while a command is pending: only CFG and STATUS writes take effect (R56). -/
theorem State.afterAccess_of_busy (hbusy : s.busy = true) (a : Access) :
    s.afterAccess a = s ∨ s.afterAccess a = { s with cfgIe := a.wdata.getLsbD 0 } ∨
    s.afterAccess a = s.writeOneToClear a.wdata ∨ s.afterAccess a = s.dropWrite := by
  have not_idle (hidle : s.busy = false) : False := Bool.false_ne_true (hidle.symm.trans hbusy)
  obtain h | ⟨-, -, h⟩ := s.afterAccess_cases a
  · exact .inl h
  · rw [h]
    obtain h | ⟨-, h⟩ | ⟨-, h⟩ | ⟨-, h⟩ | ⟨hidle, -⟩ | ⟨hidle, -⟩ | ⟨hidle, -⟩ | ⟨hidle, -⟩ :=
      State.writeReg_cases a.wdata s (regAt a.off)
    · exact .inl h
    · exact .inr (.inl h)
    · exact .inr (.inr (.inl h))
    · exact .inr (.inr (.inr h))
    all_goals exact (not_idle hidle).elim

theorem State.busAccess_sameOperands_of_busy (hbusy : s.busy = true) (a : Access) : SameOperands s (s.busAccess a) := by
  have hafter : SameOperands s (s.afterAccess a) := by
    obtain h | h | h | h := s.afterAccess_of_busy hbusy a <;> rw [h] <;> exact ⟨⟨rfl, rfl, rfl, rfl⟩, rfl, rfl, rfl⟩
  exact hafter.trans (SameOperands.setRsp _ (s.afterAccess a))

@[simp] theorem State.busAccess_done (a : Access) (s : State) : (s.busAccess a).done = (s.afterAccess a).done := rfl

/-- The host clears DONE of a busy core at most (R219). -/
theorem State.busAccess_done_of_busy (hbusy : s.busy = true) (hdone : s.done = false) (a : Access) :
    (s.busAccess a).done = false := by
  rw [State.busAccess_done]
  obtain h | h | h | h := s.afterAccess_of_busy hbusy a <;> rw [h]
  · exact hdone
  · exact hdone
  · exact State.writeOneToClear_done_of_clear _ hdone
  · exact hdone

/-- One access after the other keeps the command and its operands, and DONE clear. -/
theorem State.busAccesses_of_pending (as : List Access) (h : s.pending = some v) :
    SameOperands s (s.busAccesses as) ∧ (s.done = false → (s.busAccesses as).done = false) := by
  induction as generalizing s with
  | nil => exact ⟨.refl s, id⟩
  | cons a as ih =>
    have hbusy := State.busy_iff.mpr ⟨v, h⟩
    have hone := State.busAccess_sameOperands_of_busy hbusy a
    obtain ⟨hrest, hdone⟩ := ih (hone.pending.trans h)
    exact ⟨hone.trans hrest, fun hclear => hdone (State.busAccess_done_of_busy hbusy hclear a)⟩

/-- Settles O38: by induction on the accesses the operands stay the same, and the completion looks at nothing else. -/
theorem operandsStayFixedWhileBusy : Obligations.OperandsStayFixedWhileBusy := by
  intro as s v hpending
  obtain ⟨hsame, hdone⟩ := State.busAccesses_of_pending as hpending
  obtain ⟨t, u, ht, hu, hresult⟩ := hsame.complete v
  exact ⟨hsame.pending.trans hpending, hsame.toSameInputs, hsame.rotamt, hsame.dout, hdone, t, u, ht, hu,
    hresult.toSameInputs, hresult.dout, hresult.err, hresult.done, hresult.pending⟩

end Sys2Proof.Machine
end

section
/-! SUPPORT. The register window, access by access: who makes an error, what a read gives, what a write does (R53 to R56). -/

namespace Sys2Proof.Machine

variable {s : State} {off : BitVec 8} {v : Word} {r : Reg}

/-! ## Legal accesses -/

theorem legal_eq_false_iff {a : Access} : a.legal = false ↔ a.size ≠ 4 ∨ a.off.toNat % 4 ≠ 0 := by
  simp only [Access.legal, Bool.and_eq_false_iff, decide_eq_false_iff_not, ne_eq]

theorem err_readAccess (h4 : off.toNat % 4 = 0) : (s.respond (readAccess off)).err = false := by
  rw [respond_readAccess h4]

theorem err_writeAccess (h4 : off.toNat % 4 = 0) : (s.respond (writeAccess off v)).err = false := by
  rw [respond_writeAccess h4]

/-- A legal read at an offset of register `r` returns its value. -/
theorem rdata_readAccess (h4 : off.toNat % 4 = 0) (hr : regAt off = r) :
    (s.respond (readAccess off)).rdata = some (s.readReg r) := by
  rw [respond_readAccess h4, hr]

/-- A legal write at an offset of register `r` writes it. -/
theorem afterAccess_writeAccess_reg (h4 : off.toNat % 4 = 0) (hr : regAt off = r) :
    s.afterAccess (writeAccess off v) = s.writeReg v r := by
  rw [afterAccess_writeAccess h4, hr]

theorem keyOffset_aligned (j : Fin 8) : (BitVec.ofNat 8 (0x20 + 4 * j.val)).toNat % 4 = 0 := by revert j; decide
theorem dinOffset_aligned (j : Fin 4) : (BitVec.ofNat 8 (0x40 + 4 * j.val)).toNat % 4 = 0 := by revert j; decide
theorem doutOffset_aligned (j : Fin 4) : (BitVec.ofNat 8 (0x50 + 4 * j.val)).toNat % 4 = 0 := by revert j; decide

/-! ## Values read -/

/-- Appending puts the left word above the right one. -/
theorem toNat_append_eq_mul_add {m n : Nat} (x : BitVec m) (y : BitVec n) :
    (x ++ y).toNat = x.toNat * 2 ^ n + y.toNat := by
  rw [BitVec.toNat_append, ← Nat.shiftLeft_add_eq_or_of_lt y.isLt, Nat.shiftLeft_eq]

/-- The fields of STATUS at their places (R24). -/
theorem State.statusWord_toNat (s : State) :
    s.statusWord.toNat = s.bs.toNat * 256 + s.err.toNat * 16 + s.keyed.toNat * 8 + s.ovr.toNat * 4 + s.done.toNat * 2 +
      s.busy.toNat := by
  rw [State.statusWord, BitVec.toNat_setWidth_of_le (by decide)]
  simp only [toNat_append_eq_mul_add, bitOf, BitVec.toNat_ofBool]
  ring

/-- BS is set for the three SIMON-128 variants (R24). -/
theorem State.bs_iff (s : State) : s.bs = true ↔
    s.variant = some .simon128_128 ∨ s.variant = some .simon128_192 ∨ s.variant = some .simon128_256 := by
  unfold State.bs
  cases s.variant with
  | none => simp
  | some V => cases V <;> simp [Variant.width]

/-! ## Effects of writes -/

/-- A dropped write, by the slot itself. -/
theorem State.unlessBusy_eq_ite (s t : State) :
    s.unlessBusy t = if s.pending = none then t else { s with ovr := true } := by
  split
  · next hidle => exact State.unlessBusy_of_idle t (State.not_busy_iff.mpr hidle)
  · next hbusy => exact State.unlessBusy_of_busy t (State.busy_iff_ne_none.mpr hbusy)

/-- An acknowledgement clears the flags whose bits are 1 (R219). -/
theorem State.writeOneToClear_eq_ite (v : Word) (s : State) :
    s.writeOneToClear v =
      { s with done := if v.getLsbD 1 then false else s.done, ovr := if v.getLsbD 2 then false else s.ovr } := by
  unfold State.writeOneToClear
  cases v.getLsbD 1 <;> cases v.getLsbD 2 <;> simp

/-- The registers without a write effect: the read-only and the reserved ones (R54, R56). -/
def Reg.ignoresWrites : Reg → Bool
  | .id | .rounds | .cap | .dout _ | .reserved => true
  | .cfg | .status | .cmd | .rotamt | .key _ | .din _ => false

theorem State.writeReg_of_ignoresWrites (h : r.ignoresWrites = true) : s.writeReg v r = s := by
  cases r with
  | id | rounds | cap | dout _ | reserved => rfl
  | cfg | status | cmd | rotamt | key _ | din _ => exact absurd h Bool.false_ne_true

theorem regAt_ignoresWrites (h4 : off.toNat % 4 = 0)
    (h : off ∈ [0x00, 0x14, 0x18, 0x1C, 0x50, 0x54, 0x58, 0x5C] ∨ 0x60 ≤ off.toNat) :
    (regAt off).ignoresWrites = true := by
  revert off; decide

/-- A second drop adds nothing to the first, and the slot is as free for the second write as for the first. -/
theorem State.unlessBusy_idem (f : State → State) (hbusy : (f s).busy = s.busy) (hidem : f (f s) = f s) :
    (s.unlessBusy (f s)).unlessBusy (f (s.unlessBusy (f s))) = s.unlessBusy (f s) := by
  cases hb : s.busy with
  | true =>
    rw [State.unlessBusy_of_busy _ hb, State.unlessBusy_of_busy (s := s.dropWrite) _ hb]
    rfl
  | false => rw [State.unlessBusy_of_idle _ hb, State.unlessBusy_of_idle _ (hbusy.trans hb), hidem]

/-- A second equal write to any register but CMD changes nothing more (R56). -/
theorem State.writeReg_idem (v : Word) (s : State) (hcmd : r ≠ .cmd) :
    (s.writeReg v r).writeReg v r = s.writeReg v r := by
  cases r with
  | cmd => exact absurd rfl hcmd
  | status => simp [State.writeReg, State.writeOneToClear]
  | cfg | id | rounds | cap | dout _ | reserved => rfl
  | rotamt => exact State.unlessBusy_idem (fun t => { t with rotamt := v.setWidth 6 }) rfl rfl
  | key j => exact State.unlessBusy_idem (fun t => { t with key := t.key.set j v }) rfl (by simp)
  | din j => exact State.unlessBusy_idem (fun t => { t with din := t.din.set j v }) rfl (by simp)

/-! ## The event list plays no part in an access -/

theorem State.setEvents_unlessBusy (es : List Event) (s t : State) :
    (s.setEvents es).unlessBusy (t.setEvents es) = (s.unlessBusy t).setEvents es := by
  cases hb : s.busy with
  | true => rw [State.unlessBusy_of_busy _ hb, State.unlessBusy_of_busy (s := s.setEvents es) _ hb]; rfl
  | false => rw [State.unlessBusy_of_idle _ hb, State.unlessBusy_of_idle (s := s.setEvents es) _ hb]

theorem State.setEvents_writeReg (es : List Event) (v : Word) (s : State) (r : Reg) :
    (s.setEvents es).writeReg v r = (s.writeReg v r).setEvents es := by
  cases r with
  | cmd => exact s.setEvents_unlessBusy es (s.takeCommand v)
  | rotamt => exact s.setEvents_unlessBusy es { s with rotamt := v.setWidth 6 }
  | key j => exact s.setEvents_unlessBusy es { s with key := s.key.set j v }
  | din j => exact s.setEvents_unlessBusy es { s with din := s.din.set j v }
  | id | cfg | status | rounds | cap | dout _ | reserved => rfl

theorem State.setEvents_afterAccess (es : List Event) (a : Access) (s : State) :
    (s.setEvents es).afterAccess a = (s.afterAccess a).setEvents es := by
  unfold State.afterAccess
  split
  · exact s.setEvents_writeReg es a.wdata (regAt a.off)
  · rfl

theorem State.setEvents_respond (es : List Event) (a : Access) (s : State) : (s.setEvents es).respond a = s.respond a := by
  have hread (r : Reg) : (s.setEvents es).readReg r = s.readReg r := by cases r <;> rfl
  simp only [State.respond, hread]

end Sys2Proof.Machine
end

section
/-! PROOF. The register window: which addresses reach it, what a host step does, what reads return and writes do
(R50 to R56). -/

namespace Sys2Proof.Machine

/-- Settles O51: a distance below 256 fits the offset; from an aligned base it is the remainder. -/
theorem windowIsTwoHundredFiftySixBytes : Obligations.WindowIsTwoHundredFiftySixBytes := by
  intro p A off
  have hreach : windowOffset p A = some off ↔ p.base ≤ A ∧ A < p.base + 256 ∧ off.toNat = A - p.base := by
    unfold windowOffset Config.windowBytes
    split
    · rw [Option.some.injEq, ← BitVec.toNat_inj, BitVec.toNat_ofNat]
      omega
    · simp only [reduceCtorEq, false_iff]
      omega
  refine ⟨hreach, fun haligned h => ?_⟩
  obtain ⟨hlo, hhi, hoff⟩ := hreach.mp h
  have hmod : p.base % 256 = 0 := haligned
  omega

/-- Settles O34: the step is the host's turn, and taking the event first makes no difference to the access. -/
theorem hostStepPerformsOneAccess : Obligations.HostStepPerformsOneAccess := by
  intro s a es h
  rw [step_of_cons h, takeTurn, State.busAccess, State.setEvents_afterAccess, State.setEvents_respond]
  rfl

/-- Settles O43: an error response means that the access is not legal; such a read gives 0 and nothing takes effect. -/
theorem illegalAccessGetsABusError : Obligations.IllegalAccessGetsABusError := by
  intro s a
  have herr : (s.respond a).err = true ↔ a.legal = false := by simp [State.respond]
  refine ⟨herr.trans legal_eq_false_iff, fun h => ⟨afterAccess_illegal (herr.mp h), fun hread => ?_⟩⟩
  simp [State.respond, herr.mp h, hread]

/-- Settles O44: such an offset reaches the reserved register. -/
theorem reservedOffsetsReadZeroAndIgnoreWrites : Obligations.ReservedOffsetsReadZeroAndIgnoreWrites := by
  intro s off v h4 hoff
  have hr := regAt_reserved h4 hoff
  exact ⟨err_readAccess h4, rdata_readAccess h4 hr, afterAccess_read rfl, err_writeAccess h4,
    afterAccess_writeAccess_reg h4 hr⟩

/-- Settles O45: a legal read returns the register its offset reaches, one register after the other. -/
theorem readsReturnTheRegister : Obligations.ReadsReturnTheRegister := by
  intro s rd
  have hrd {off r} (h4 : off.toNat % 4 = 0) (hr : regAt off = r) : rd off = some (s.readReg r) := rdata_readAccess h4 hr
  refine ⟨hrd (by decide) regAt_id, ?cfg, ?status, s.bs_iff, hrd (by decide) regAt_cmd, ?rotamt, ?rounds,
    hrd (by decide) regAt_cap, fun j => hrd (keyOffset_aligned j) (regAt_key j),
    fun j => hrd (dinOffset_aligned j) (regAt_din j), fun j => hrd (doutOffset_aligned j) (regAt_dout j),
    fun off h4 hoff => hrd h4 (regAt_reserved h4 hoff), fun a hread => afterAccess_read hread, fun a => ?dout,
    fun off h4 => err_readAccess h4⟩
  case cfg =>
    rw [hrd (by decide) regAt_cfg, State.readReg]
    cases s.cfgIe <;> rfl
  case status =>
    rw [hrd (by decide) regAt_status]
    exact congrArg some s.statusWord_toNat
  case rotamt =>
    rw [hrd (by decide) regAt_rotamt]
    exact congrArg some (BitVec.toNat_setWidth_of_le (by decide))
  case rounds =>
    have hlt : s.roundCount < 2 ^ 32 := s.roundCount_lt.trans (by decide)
    rw [hrd (by decide) regAt_rounds]
    exact congrArg some ((BitVec.toNat_ofNat _ _).trans (Nat.mod_eq_of_lt hlt))
  case dout =>
    obtain ⟨-, -, hdout, -⟩ := s.afterAccess_keeps a
    exact hdout

/-- Settles O46: a legal write is the write of the register its offset reaches; a CMD write to the core after reset fills
the slot, and the same write again sets OVR. -/
theorem writesTakeEffectOrAreDropped : Obligations.WritesTakeEffectOrAreDropped := by
  refine ⟨fun s v => ?_, State.reset, 0, fun h => absurd (congrArg State.ovr h) (by decide)⟩
  intro wr dropped
  have hwr {off r} (h4 : off.toNat % 4 = 0) (hr : regAt off = r) : wr off = s.writeReg v r :=
    afterAccess_writeAccess_reg h4 hr
  refine ⟨hwr (by decide) regAt_cfg, ?status, ?cmd, ?rotamt, fun j => ?key, fun j => ?din, fun off h4 hoff => ?ignored,
    fun off hoff => ?again, fun off h4 => err_writeAccess h4⟩
  case status => exact (hwr (by decide) regAt_status).trans (s.writeOneToClear_eq_ite v)
  case cmd => exact (hwr (by decide) regAt_cmd).trans (s.unlessBusy_eq_ite _)
  case rotamt =>
    rw [hwr (by decide) regAt_rotamt, ← BitVec.setWidth_eq_extractLsb' (by decide)]
    exact s.unlessBusy_eq_ite _
  case key => exact (hwr (keyOffset_aligned j) (regAt_key j)).trans (s.unlessBusy_eq_ite _)
  case din => exact (hwr (dinOffset_aligned j) (regAt_din j)).trans (s.unlessBusy_eq_ite _)
  case ignored => exact (hwr h4 rfl).trans (State.writeReg_of_ignoresWrites (regAt_ignoresWrites h4 hoff))
  case again =>
    obtain ⟨h4, hcmd⟩ : off.toNat % 4 = 0 ∧ regAt off ≠ .cmd := by revert off; decide
    rw [hwr h4 rfl, afterAccess_writeAccess h4, State.writeReg_idem v s hcmd]

end Sys2Proof.Machine
end

section
/-! SUPPORT. Big-endian byte strings (R9), and the row of registers that holds one word in their bytes (R57, R61). -/

namespace Sys2Proof.Machine

/-! ## Byte strings of numbers -/

/-- The first bytes are those of the upper part. -/
theorem bigEndianBytes_add (m n v : Nat) :
    bigEndianBytes (m + n) v = bigEndianBytes m (v / 256 ^ n) ++ bigEndianBytes n v := by
  unfold bigEndianBytes
  rw [List.range_add, List.map_append, List.map_map]
  congr 1
  · refine List.map_congr_left fun j hj => ?_
    have hlt : j < m := List.mem_range.mp hj
    rw [Nat.div_div_eq_div_mul, ← pow_add]
    congr 3
    omega
  · refine List.map_congr_left fun j hj => ?_
    have hexp : m + n - 1 - (m + j) = n - 1 - j := by omega
    rw [Function.comp_apply, hexp]

/-- The last `n` bytes see the number modulo `256 ^ n` alone. -/
theorem bigEndianBytes_mod (n v : Nat) : bigEndianBytes n (v % 256 ^ n) = bigEndianBytes n v := by
  refine List.map_congr_left fun j hj => BitVec.eq_of_toNat_eq ?_
  have hlt : j < n := List.mem_range.mp hj
  have hpow : 256 ^ n = 256 ^ (n - 1 - j) * (256 * 256 ^ j) := by
    rw [← pow_succ', ← pow_add]
    congr 1
    omega
  rw [hpow, Nat.mod_mul_right_div_self, BitVec.toNat_ofNat, BitVec.toNat_ofNat]
  exact Nat.mod_mul_right_mod _ 256 _

/-- The big-endian value of the bytes of a number is the number, as far as they reach. -/
theorem bigEndian_bigEndianBytes (n v : Nat) : bigEndian (bigEndianBytes n v) = v % 256 ^ n := by
  induction n generalizing v with
  | zero => exact (Nat.mod_one v).symm
  | succ n ih =>
    have hlast : bigEndianBytes 1 v = [BitVec.ofNat 8 v] := by simp [bigEndianBytes, List.range_succ]
    have hfold : bigEndian (bigEndianBytes n (v / 256) ++ [BitVec.ofNat 8 v]) =
        bigEndian (bigEndianBytes n (v / 256)) * 256 + v % 256 := by
      simp [bigEndian]
    rw [bigEndianBytes_add, hlast, pow_one, hfold, ih, pow_succ', Nat.mod_mul]
    ring

/-! ## Byte strings of registers -/

theorem registerBytes_append (rs rs' : List Word) :
    registerBytes (rs ++ rs') = registerBytes rs ++ registerBytes rs' := List.flatMap_append

theorem registerBytes_single (r : Word) : registerBytes [r] = bigEndianBytes 4 r.toNat := by
  have hlanes : registerBytes [r] = (List.range 4).map (byteLane r) := List.append_nil _
  rw [hlanes]
  refine List.map_congr_left fun t ht => ?_
  have hlow : 24 - 8 * t = 8 * (4 - 1 - t) := by omega
  rw [byteLane, BitVec.extractLsb', Nat.shiftRight_eq_div_pow, hlow, pow_mul]
  norm_num

/-- A register is four bytes, so the bytes from a register on are those of the registers from it on. -/
theorem registerBytes_drop (n : Nat) (rs : List Word) : (registerBytes rs).drop (4 * n) = registerBytes (rs.drop n) := by
  induction n generalizing rs with
  | zero => rfl
  | succ n ih =>
    cases rs with
    | nil => simp [registerBytes]
    | cons r rs => exact ih rs

theorem registerBytes_take (n : Nat) (rs : List Word) : (registerBytes rs).take (4 * n) = registerBytes (rs.take n) := by
  induction n generalizing rs with
  | zero => rfl
  | succ n ih =>
    cases rs with
    | nil => simp [registerBytes]
    | cons r rs => exact congrArg (registerBytes [r] ++ ·) (ih rs)

theorem registerBytes_replicate_zero (n : Nat) : registerBytes (List.replicate n 0) = List.replicate (4 * n) 0 := by
  induction n with
  | zero => rfl
  | succ n ih => exact congrArg (List.replicate 4 0 ++ ·) ih

/-! ## Words in registers -/

/-- How many registers a word takes. -/
def registersPerWord : Width → Nat
  | .w32 => 1
  | .w64 => 2

/-- Each of those registers holds four bytes of the word. -/
theorem wordBytes_eq (w : Width) : w.bits / 8 = 4 * registersPerWord w := by cases w <;> rfl

/-- The registers that hold one word, the upper half first (R58 to R60). -/
def wordRegisters (w : Width) (v : BitVec w.bits) : List Word :=
  match w, v with
  | .w32, v => [v]
  | .w64, v => [hiWord v, loWord v]

/-- Word `i` of a row of registers, 0 beyond its end. -/
def wordAt (w : Width) (rs : List Word) (i : Nat) : BitVec w.bits :=
  match w with
  | .w32 => rs.getD i 0
  | .w64 => rs.getD (2 * i) 0 ++ rs.getD (2 * i + 1) 0

theorem hiWord_toNat (v : BitVec 64) : (hiWord v).toNat = v.toNat / 256 ^ 4 := by
  rw [hiWord, BitVec.extractLsb'_toNat, Nat.shiftRight_eq_div_pow]
  omega

theorem loWord_toNat (v : BitVec 64) : (loWord v).toNat = v.toNat % 256 ^ 4 := by
  rw [loWord, BitVec.extractLsb'_toNat, Nat.shiftRight_zero]
  norm_num

/-- The registers of a word hold its bytes, the most significant first. -/
theorem registerBytes_wordRegisters (w : Width) (v : BitVec w.bits) :
    registerBytes (wordRegisters w v) = bigEndianBytes (w.bits / 8) v.toNat := by
  cases w with
  | w32 => exact registerBytes_single v
  | w64 =>
    calc registerBytes [hiWord v, loWord v]
      _ = registerBytes [hiWord v] ++ registerBytes [loWord v] := registerBytes_append [hiWord v] [loWord v]
      _ = bigEndianBytes 4 (v.toNat / 256 ^ 4) ++ bigEndianBytes 4 v.toNat := by
        rw [registerBytes_single, registerBytes_single, hiWord_toNat, loWord_toNat, bigEndianBytes_mod]
      _ = bigEndianBytes 8 v.toNat := (bigEndianBytes_add 4 4 v.toNat).symm

theorem bigEndian_wordRegisters (w : Width) (v : BitVec w.bits) :
    bigEndian (registerBytes (wordRegisters w v)) = v.toNat := by
  have hlt : v.toNat < 256 ^ (w.bits / 8) := by cases w <;> exact v.isLt
  rw [registerBytes_wordRegisters, bigEndian_bigEndianBytes, Nat.mod_eq_of_lt hlt]

/-- The registers of word `i` stand at its place in the row. -/
theorem wordRegisters_wordAt {w : Width} {rs : List Word} {i : Nat} (h : registersPerWord w * (i + 1) ≤ rs.length) :
    wordRegisters w (wordAt w rs i) = (rs.drop (registersPerWord w * i)).take (registersPerWord w) := by
  cases w with
  | w32 =>
    have hi : i < rs.length := by simp only [registersPerWord] at h; omega
    have hdrop : (rs.drop (1 * i)).take 1 = [rs[i]] := by
      rw [Nat.one_mul, List.drop_eq_getElem_cons hi]
      rfl
    simp only [wordRegisters, wordAt, registersPerWord, hdrop, List.getD_eq_getElem _ _ hi]
  | w64 =>
    have hhi : 2 * i < rs.length := by simp only [registersPerWord] at h; omega
    have hlo : 2 * i + 1 < rs.length := by simp only [registersPerWord] at h; omega
    have hdrop : (rs.drop (2 * i)).take 2 = [rs[2 * i], rs[2 * i + 1]] := by
      rw [List.drop_eq_getElem_cons hhi, List.drop_eq_getElem_cons hlo]
      rfl
    simp only [wordRegisters, wordAt, registersPerWord, hdrop, List.getD_eq_getElem _ _ hhi, List.getD_eq_getElem _ _ hlo,
      hiWord, loWord, BitVec.extractLsb'_append_eq_left, BitVec.extractLsb'_append_eq_right]

/-- A word of a row of registers is the big-endian value of its bytes. -/
theorem wordAt_toNat {w : Width} {rs : List Word} {i : Nat} (h : registersPerWord w * (i + 1) ≤ rs.length) :
    (wordAt w rs i).toNat = bigEndian (((registerBytes rs).drop (w.bits / 8 * i)).take (w.bits / 8)) := by
  rw [wordBytes_eq, Nat.mul_assoc, registerBytes_drop, registerBytes_take, ← wordRegisters_wordAt h,
    bigEndian_wordRegisters]

theorem userKeyWord_eq_wordAt (w : Width) (key : Vector Word 8) (i : Nat) :
    userKeyWord w key i = wordAt w key.toList i := by
  cases w <;> simp [userKeyWord, wordAt]

theorem xOperand_eq_wordAt (w : Width) (din : Vector Word 4) : xOperand w din = wordAt w din.toList 0 := by
  cases w <;> simp [xOperand, wordAt]

theorem yOperand_eq_wordAt (w : Width) (din : Vector Word 4) : yOperand w din = wordAt w din.toList 1 := by
  cases w <;> simp [yOperand, wordAt]

theorem blockResult_toList (w : Width) (x y : BitVec w.bits) :
    (blockResult w (x, y)).toList = wordRegisters w x ++ wordRegisters w y ++ List.replicate (4 - w.bits / 16) 0 := by
  cases w <;> rfl

theorem wordResult_toList (w : Width) (r : BitVec w.bits) :
    (wordResult w r).toList = wordRegisters w r ++ List.replicate (4 - w.bits / 32) 0 := by
  cases w <;> rfl

end Sys2Proof.Machine
end

section
/-! PROOF. The byte order of the key buffer, the input block and the results (R57 to R60). -/

namespace Sys2Proof.Machine

/-- Every user-key word lies inside KEY0 to KEY7 (R58). -/
theorem userKey_fits (V : Variant) : registersPerWord V.width * V.keyWords ≤ 8 := by
  cases V <;> decide

/-- Settles O13: each user-key word is a word of the row KEY0 to KEY7. -/
theorem userKeyWordsAreBigEndian : Obligations.UserKeyWordsAreBigEndian := by
  intro V key
  refine ⟨userKey_length V key, rfl, fun i hi => ?_, fun i => ?_, fun i => ?_⟩
  · have hfits : registersPerWord V.width * (i + 1) ≤ key.toList.length := by
      rw [Vector.length_toList]
      exact (Nat.mul_le_mul_left _ hi).trans (userKey_fits V)
    have hword : (userKey V key).getD i 0 = userKeyWord V.width key i := by simp [userKey, hi]
    rw [hword, userKeyWord_eq_wordAt, wordAt_toNat hfits]
  · rw [userKeyWord, Vector.getElem?_eq_getElem (by omega), Option.getD_some]
  · rw [userKeyWord, Vector.getElem?_eq_getElem (by omega), Vector.getElem?_eq_getElem (by omega), Option.getD_some,
      Option.getD_some]

/-- Settles O14: x and y are words 0 and 1 of the row DIN0 to DIN3, and the results are the registers of their words. -/
theorem blockBytesAreBigEndian : Obligations.BlockBytesAreBigEndian := by
  refine ⟨fun w din => ⟨?x, ?y⟩, fun w x y => ?block, fun w r => ?word⟩
  case x =>
    have hfits : registersPerWord w * (0 + 1) ≤ din.toList.length := by cases w <;> simp [registersPerWord]
    exact xOperand_eq_wordAt w din ▸ wordAt_toNat hfits
  case y =>
    have hfits : registersPerWord w * (1 + 1) ≤ din.toList.length := by cases w <;> simp [registersPerWord]
    rw [yOperand_eq_wordAt, wordAt_toNat hfits, Nat.mul_one]
  case block =>
    have hrest : 4 * (4 - w.bits / 16) = 16 - w.bits / 4 := by cases w <;> rfl
    rw [blockResult_toList, registerBytes_append, registerBytes_append, registerBytes_wordRegisters,
      registerBytes_wordRegisters, registerBytes_replicate_zero, hrest]
  case word =>
    have hrest : 4 * (4 - w.bits / 32) = 16 - w.bits / 8 := by cases w <;> rfl
    rw [wordResult_toList, registerBytes_append, registerBytes_wordRegisters, registerBytes_replicate_zero, hrest]

end Sys2Proof.Machine
end

section
/-! SUPPORT. The fields of a command word: a word is its six fields (R81), and a command fixes the six fields of its word
(R84, R85). -/

namespace Sys2Proof

open Laws.EncodingFields (opcode)

variable {u v : Word} {i : Instr}

/-! ## A word is its fields -/

theorem word_eq_iff_fields : u = v ↔
    opField u = opField v ∧ rsv0Field u = rsv0Field v ∧ wField u = wField v ∧ rsv1Field u = rsv1Field v ∧
    imm6Field u = imm6Field v ∧ rsv2Field u = rsv2Field v := by
  constructor
  · rintro rfl
    exact ⟨rfl, rfl, rfl, rfl, rfl, rfl⟩
  · simp only [opField, rsv0Field, wField, rsv1Field, imm6Field, rsv2Field, ← BitVec.toNat_inj, BitVec.extractLsb'_toNat,
      Nat.shiftRight_eq_div_pow]
    omega

theorem extractLsb'_eq_of_getLsbD {start len : Nat} {x : BitVec len}
    (h : ∀ n < len, v.getLsbD (start + n) = x.getLsbD n) : v.extractLsb' start len = x :=
  BitVec.eq_of_getLsbD_eq fun n hn => by simpa [hn] using h n hn

/-- The bits of a packed word whose operands fit their fields (R89). -/
theorem getLsbD_packFields (op : BitVec 4) (b : BitVec 1) (k : BitVec 6) (n : Nat) :
    (packFields (op.setWidth 32) (b.setWidth 32) k.toNat).getLsbD n =
      if n < 4 then op.getLsbD n else if n = 8 then b.getLsbD 0
      else if 16 ≤ n ∧ n < 22 then k.getLsbD (n - 16) else false := by
  simp only [packFields, BitVec.getLsbD_or, BitVec.getLsbD_shiftLeft, BitVec.getLsbD_setWidth, BitVec.getLsbD_ofNat,
    BitVec.testBit_toNat]
  grind

/-- Packing puts each operand into its own field and leaves the reserved ones 0 (R81, R84). -/
theorem packFields_fields (op : BitVec 4) (b : BitVec 1) (k : BitVec 6) :
    let v := packFields (op.setWidth 32) (b.setWidth 32) k.toNat
    opField v = op ∧ rsv0Field v = 0 ∧ wField v = b ∧ rsv1Field v = 0 ∧ imm6Field v = k ∧ rsv2Field v = 0 := by
  refine ⟨extractLsb'_eq_of_getLsbD ?op, extractLsb'_eq_of_getLsbD ?rsv0, extractLsb'_eq_of_getLsbD ?w,
    extractLsb'_eq_of_getLsbD ?rsv1, extractLsb'_eq_of_getLsbD ?imm6, extractLsb'_eq_of_getLsbD ?rsv2⟩
  all_goals
    intro n hn
    simp only [getLsbD_packFields, BitVec.ofNat_eq_ofNat, BitVec.getLsbD_zero]
    grind

/-! ## The fields of a command -/

/-- The value of W that selects a width (R82). -/
def Width.field : Width → BitVec 1
  | .w32 => 0
  | .w64 => 1

theorem Width.bit_eq_field (w : Width) : w.bit = w.field.setWidth 32 := by cases w <;> rfl

theorem Width.widthOfBit_field (w : Width) : widthOfBit w.field = w := by cases w <;> rfl

theorem field_widthOfBit (b : BitVec 1) : (widthOfBit b).field = b := by revert b; decide

/-- The value of W in a command's word: 0 where the command does not use it (R84). -/
def Instr.widthField : Instr → BitVec 1
  | .keysetup w _ | .roli w _ | .rori w _ | .rolv w | .rorv w | .fmix w => w.field
  | .nop | .encrypt | .decrypt | .zeroize => 0

/-- The value of IMM6 in a command's word: 0 where the command does not use it (R84). -/
def Instr.immField : Instr → BitVec 6
  | .keysetup _ k | .roli _ k | .rori _ k => BitVec.ofNat 6 k
  | .nop | .encrypt | .decrypt | .rolv _ | .rorv _ | .fmix _ | .zeroize => 0

/-- RSV0, RSV1 and RSV2 are 0 (R84). -/
structure ReservedClear (v : Word) : Prop where
  rsv0 : rsv0Field v = 0
  rsv1 : rsv1Field v = 0
  rsv2 : rsv2Field v = 0

/-- The six fields of the word have the values the command gives them. -/
structure HasFieldsOf (i : Instr) (v : Word) : Prop extends ReservedClear v where
  op    : opField v = opcode i
  width : wField v = i.widthField
  imm   : imm6Field v = i.immField

theorem HasFieldsOf.word_unique (hu : HasFieldsOf i u) (hv : HasFieldsOf i v) : u = v :=
  word_eq_iff_fields.mpr ⟨hu.op.trans hv.op.symm, hu.rsv0.trans hv.rsv0.symm, hu.width.trans hv.width.symm,
    hu.rsv1.trans hv.rsv1.symm, hu.imm.trans hv.imm.symm, hu.rsv2.trans hv.rsv2.symm⟩

/-- An immediate that fits IMM6 is the value of the field (R83). -/
theorem toNat_ofNat_six {k : Nat} (h : decide (k ≤ maxImm) = true) : (BitVec.ofNat 6 k).toNat = k :=
  (BitVec.toNat_ofNat k 6).trans (Nat.mod_eq_of_lt (Nat.lt_succ_of_le (of_decide_eq_true h)))

theorem encode_eq_packFields (h : i.wellFormed = true) :
    encode i = packFields ((opcode i).setWidth 32) (i.widthField.setWidth 32) i.immField.toNat := by
  cases i with
  | nop | encrypt | decrypt | zeroize => rfl
  | keysetup w k | roli w k | rori w k => rw [encode, w.bit_eq_field, Instr.immField, toNat_ofNat_six h]; rfl
  | rolv w | rorv w | fmix w => rw [encode, w.bit_eq_field]; rfl

/-- The encoding of a well-formed command has the command's fields (R89). -/
theorem encode_hasFieldsOf (h : i.wellFormed = true) : HasFieldsOf i (encode i) := by
  obtain ⟨hop, hrsv0, hw, hrsv1, himm, hrsv2⟩ := packFields_fields (opcode i) i.widthField i.immField
  rw [encode_eq_packFields h]
  exact ⟨⟨hrsv0, hrsv1, hrsv2⟩, hop, hw, himm⟩

/-! ## The decoder by the fields -/

theorem decodeBare_eq_ok_iff {j : Instr} : decodeBare v j = .ok i ↔ wField v = 0 ∧ imm6Field v = 0 ∧ j = i := by
  unfold decodeBare
  split <;> simp_all

theorem decodeWidth_eq_ok_iff {f : Width → Instr} :
    decodeWidth v f = .ok i ↔ imm6Field v = 0 ∧ f (widthOfBit (wField v)) = i := by
  unfold decodeWidth
  split <;> simp_all

theorem decodeImm_eq_ok_iff {f : Width → Nat → Instr} :
    decodeImm v f = .ok i ↔ f (widthOfBit (wField v)) (imm6Field v).toNat = i := by
  simp [decodeImm]

theorem imm6Field_le (v : Word) : decide ((imm6Field v).toNat ≤ maxImm) = true :=
  decide_eq_true (Nat.le_of_lt_succ (imm6Field v).isLt)

theorem ofNat_imm6Field (v : Word) : BitVec.ofNat 6 (imm6Field v).toNat = imm6Field v :=
  BitVec.eq_of_toNat_eq (toNat_ofNat_six (imm6Field_le v))

/-- A decoded command is well-formed, and the word has its fields (R84, R87). -/
theorem hasFieldsOf_of_decode (h : decode v = .ok i) : i.wellFormed = true ∧ HasFieldsOf i v := by
  unfold decode at h
  split at h
  · cases h
  · next hrsv =>
    obtain ⟨hrsv0, hrsv1, hrsv2⟩ : rsv0Field v = 0 ∧ rsv1Field v = 0 ∧ rsv2Field v = 0 := by simpa using hrsv
    split at h
    case h_11 => cases h
    case h_1 hop | h_3 hop | h_4 hop | h_10 hop =>
      obtain ⟨hw, himm, rfl⟩ := decodeBare_eq_ok_iff.mp h
      exact ⟨rfl, ⟨hrsv0, hrsv1, hrsv2⟩, BitVec.eq_of_toNat_eq hop, hw, himm⟩
    case h_2 hop | h_5 hop | h_6 hop =>
      obtain rfl := decodeImm_eq_ok_iff.mp h
      exact ⟨imm6Field_le v, ⟨hrsv0, hrsv1, hrsv2⟩, BitVec.eq_of_toNat_eq hop, (field_widthOfBit _).symm,
        (ofNat_imm6Field v).symm⟩
    case h_7 hop | h_8 hop | h_9 hop =>
      obtain ⟨himm, rfl⟩ := decodeWidth_eq_ok_iff.mp h
      exact ⟨rfl, ⟨hrsv0, hrsv1, hrsv2⟩, BitVec.eq_of_toNat_eq hop, (field_widthOfBit _).symm, himm⟩

/-- A word with the fields of a well-formed command decodes to it (R87). -/
theorem HasFieldsOf.decode_eq (hv : HasFieldsOf i v) (h : i.wellFormed = true) : decode v = .ok i := by
  obtain ⟨⟨hrsv0, hrsv1, hrsv2⟩, hop, hw, himm⟩ := hv
  rw [decode, if_neg (by simp [hrsv0, hrsv1, hrsv2]), hop]
  cases i with
  | nop | encrypt | decrypt | zeroize => exact decodeBare_eq_ok_iff.mpr ⟨hw, himm, rfl⟩
  | keysetup w k | roli w k | rori w k =>
    refine decodeImm_eq_ok_iff.mpr ?_
    rw [hw, himm, Instr.widthField, Instr.immField, w.widthOfBit_field, toNat_ofNat_six h]
  | rolv w | rorv w | fmix w =>
    refine decodeWidth_eq_ok_iff.mpr ⟨himm, ?_⟩
    rw [hw, Instr.widthField, w.widthOfBit_field]

theorem decode_eq_ok_iff : decode v = .ok i ↔ i.wellFormed = true ∧ HasFieldsOf i v :=
  ⟨hasFieldsOf_of_decode, fun ⟨h, hv⟩ => hv.decode_eq h⟩

end Sys2Proof
end

section
/-! PROOF. Decoding and encoding are inverse to each other, and the masks and matches of the commands (R81 to R89). -/

namespace Sys2Proof

variable {v : Word}

/-- Settles O1: the encoding has the fields of the command, and such a word decodes to it. -/
theorem decodeOfEncodeIsTheCommand : Obligations.DecodeOfEncodeIsTheCommand :=
  fun _ h => (encode_hasFieldsOf h).decode_eq h

/-- Settles O2: the word has the fields of the command it decodes to, as the command's encoding has, and a word is its
fields. -/
theorem encodeOfDecodeIsTheWord : Obligations.EncodeOfDecodeIsTheWord := by
  intro v i h
  obtain ⟨hwf, hv⟩ := hasFieldsOf_of_decode h
  exact ⟨hwf, (encode_hasFieldsOf hwf).word_unique hv⟩

/-- A word decodes to a command exactly when it is the encoding of it, a well-formed one (R87, R89). -/
theorem decode_eq_ok_iff_encode {i : Instr} : decode v = .ok i ↔ i.wellFormed = true ∧ v = encode i :=
  ⟨fun h => (encodeOfDecodeIsTheWord v i h).imp_right Eq.symm,
    fun ⟨hwf, hv⟩ => hv ▸ decodeOfEncodeIsTheCommand i hwf⟩

/-! ## Masks and matches -/

open Laws.EncodingFields (opcode)

/-- The mask of a command that uses neither W nor IMM6 holds every bit: the word is the encoding itself (R86). -/
theorem and_fullMask_eq_iff (i : Instr) (h : i.wellFormed = true) : v &&& 0xFFFFFFFF = encode i ↔ decode v = .ok i := by
  have hmask : v &&& 0xFFFFFFFF = v := BitVec.and_allOnes
  rw [hmask, decode_eq_ok_iff_encode, and_iff_right h]

/-- The fields of an opcode alone. -/
theorem opcodeWord_fields (op : BitVec 4) :
    opField (op.setWidth 32) = op ∧ rsv0Field (op.setWidth 32) = 0 ∧ wField (op.setWidth 32) = 0 ∧
    rsv1Field (op.setWidth 32) = 0 ∧ imm6Field (op.setWidth 32) = 0 ∧ rsv2Field (op.setWidth 32) = 0 := by
  simpa [packFields] using packFields_fields op 0 0

/-- A mask that holds OP and the reserved fields whole asks for OP, for reserved bits that are 0, and for the bits of W and
IMM6 it holds to be 0. -/
theorem and_mask_eq_iff {mask : Word} {op : BitVec 4}
    (hmask : opField mask = BitVec.allOnes 4 ∧ rsv0Field mask = BitVec.allOnes 4 ∧ rsv1Field mask = BitVec.allOnes 7 ∧
      rsv2Field mask = BitVec.allOnes 10) :
    v &&& mask = op.setWidth 32 ↔
      ReservedClear v ∧ opField v = op ∧ wField v &&& wField mask = 0 ∧ imm6Field v &&& imm6Field mask = 0 := by
  obtain ⟨hop, hrsv0, hrsv1, hrsv2⟩ := hmask
  obtain ⟨eop, ersv0, ew, ersv1, eimm, ersv2⟩ := opcodeWord_fields op
  rw [word_eq_iff_fields, eop, ersv0, ew, ersv1, eimm, ersv2]
  simp only [opField, rsv0Field, wField, rsv1Field, imm6Field, rsv2Field] at hop hrsv0 hrsv1 hrsv2 ⊢
  simp only [BitVec.extractLsb'_and, hop, hrsv0, hrsv1, hrsv2, BitVec.and_allOnes]
  constructor
  · rintro ⟨h, h0, hw, h1, himm, h2⟩
    exact ⟨⟨h0, h1, h2⟩, h, hw, himm⟩
  · rintro ⟨⟨h0, h1, h2⟩, h, hw, himm⟩
    exact ⟨h, h0, hw, h1, himm, h2⟩

/-- The row of a command that uses W alone: bit 8 is free (R86). -/
theorem and_widthMask_eq_iff {f : Width → Instr} (hf : f = .rolv ∨ f = .rorv ∨ f = .fmix) :
    v &&& 0xFFFFFEFF = (opcode (f .w32)).setWidth 32 ↔ ∃ w, decode v = .ok (f w) := by
  have hw : wField 0xFFFFFEFF = 0 := by decide
  have himm : imm6Field 0xFFFFFEFF = BitVec.allOnes 6 := by decide
  rw [and_mask_eq_iff (by decide), hw, himm, BitVec.and_allOnes]
  constructor
  · rintro ⟨hr, hop, -, himm⟩
    refine ⟨widthOfBit (wField v), decode_eq_ok_iff.mpr ?_⟩
    obtain rfl | rfl | rfl := hf <;> exact ⟨rfl, hr, hop, (field_widthOfBit _).symm, himm⟩
  · rintro ⟨w, h⟩
    obtain ⟨-, hr, hop, -, himm⟩ := hasFieldsOf_of_decode h
    obtain rfl | rfl | rfl := hf <;> exact ⟨hr, hop, BitVec.and_zero, himm⟩

/-- The row of a command that uses W and IMM6: bits 21:16 and bit 8 are free (R86). -/
theorem and_immMask_eq_iff {f : Width → Nat → Instr} (hf : f = .keysetup ∨ f = .roli ∨ f = .rori) :
    v &&& 0xFFC0FEFF = (opcode (f .w32 0)).setWidth 32 ↔ ∃ w k, decode v = .ok (f w k) := by
  have hw : wField 0xFFC0FEFF = 0 := by decide
  have himm : imm6Field 0xFFC0FEFF = 0 := by decide
  rw [and_mask_eq_iff (by decide), hw, himm]
  constructor
  · rintro ⟨hr, hop, -, -⟩
    refine ⟨widthOfBit (wField v), (imm6Field v).toNat, decode_eq_ok_iff.mpr ?_⟩
    obtain rfl | rfl | rfl := hf <;>
      exact ⟨imm6Field_le v, hr, hop, (field_widthOfBit _).symm, (ofNat_imm6Field v).symm⟩
  · rintro ⟨w, k, h⟩
    obtain ⟨-, hr, hop, -, -⟩ := hasFieldsOf_of_decode h
    obtain rfl | rfl | rfl := hf <;> exact ⟨hr, hop, BitVec.and_zero, BitVec.and_zero⟩

theorem eq_w64_iff_of_wField {w : Width} (h : wField v = w.field) : w = .w64 ↔ v.getLsbD 8 = true := by
  have hbit : v.getLsbD 8 = (wField v).getLsbD 0 := by simp [wField]
  rw [hbit, h]
  cases w <;> decide

theorem eq_of_imm6Field {k : Nat} (hk : decide (k ≤ maxImm) = true) (h : imm6Field v = BitVec.ofNat 6 k) :
    k = v.toNat / 2 ^ 16 % 64 := by
  rw [← toNat_ofNat_six hk, ← h, imm6Field, BitVec.extractLsb'_toNat, Nat.shiftRight_eq_div_pow]

/-- The masks of two rows hold OP, and the matches differ there. -/
abbrev DifferInOpcode (a b : Word × Word) : Prop := a.1 &&& 0xF = 0xF ∧ b.1 &&& 0xF = 0xF ∧ a.2 &&& 0xF ≠ b.2 &&& 0xF

theorem DifferInOpcode.no_common_word {a b : Word × Word} (h : DifferInOpcode a b) (v : Word) :
    ¬ (v &&& a.1 = a.2 ∧ v &&& b.1 = b.2) := by
  rintro ⟨ha, hb⟩
  obtain ⟨hmaskA, hmaskB, hne⟩ := h
  apply hne
  rw [← ha, ← hb, BitVec.and_assoc, BitVec.and_assoc, hmaskA, hmaskB]

/-- Settles O3: each row asks for the fields the decoder asks for, and all masks hold OP, in which the matches differ. -/
theorem commandsMatchMaskAndMatch : Obligations.CommandsMatchMaskAndMatch := by
  refine ⟨fun v => ⟨and_fullMask_eq_iff .nop rfl, and_immMask_eq_iff (.inl rfl), and_fullMask_eq_iff .encrypt rfl,
      and_fullMask_eq_iff .decrypt rfl, and_immMask_eq_iff (.inr (.inl rfl)), and_immMask_eq_iff (.inr (.inr rfl)),
      and_widthMask_eq_iff (.inl rfl), and_widthMask_eq_iff (.inr (.inl rfl)), and_widthMask_eq_iff (.inr (.inr rfl)),
      and_fullMask_eq_iff .zeroize rfl⟩,
    ?imm, ?width, ?disjoint, ?keylen⟩
  case imm =>
    rintro v w n (h | h | h)
    all_goals
      obtain ⟨hn, -, -, hw, himm⟩ := hasFieldsOf_of_decode h
      exact ⟨eq_of_imm6Field hn himm, eq_w64_iff_of_wField hw⟩
  case width =>
    rintro v w (h | h | h)
    all_goals
      obtain ⟨-, -, -, hw, -⟩ := hasFieldsOf_of_decode h
      exact eq_w64_iff_of_wField hw
  case disjoint =>
    refine List.Pairwise.imp (R := DifferInOpcode) (fun h v => h.no_common_word v) ?_
    decide
  case keylen =>
    intro v w len s _ hdec hnone
    exact ⟨_, (Machine.complete_of_ok hdec).trans (Machine.exec_keysetup_of_none hnone), rfl⟩

/-- Settles O5: each of the twelve words is the encoding of its command, and the decoder refuses the eleven. -/
theorem writtenOutWordsDecode : Obligations.WrittenOutWordsDecode := by
  have word {v : Word} {i : Instr} (h : i.wellFormed = true ∧ v = encode i) : decode v = .ok i :=
    decode_eq_ok_iff_encode.mpr h
  have refused {v : Word} (h : (decode v).toOption.isNone = true) : ∃ r, decode v = .error r := by
    cases hdec : decode v with
    | error r => exact ⟨r, rfl⟩
    | ok i => rw [hdec] at h; cases h
  refine ⟨word (by decide), word (by decide), word (by decide), word (by decide), word (by decide), word (by decide),
    word (by decide), word (by decide), word (by decide), word (by decide), word (by decide), word (by decide),
    fun v hv => refused (List.all_eq_true (p := fun v => (decode v).toOption.isNone).mp (by decide) v hv)⟩

end Sys2Proof
end

section
/-! SUPPORT. What a turn of the host is to the core (R11, R90), what a read of STATUS tells, and that every completion
commits and looks at neither the port nor the event list. -/

namespace Sys2Proof.Machine

variable {s t : State} {v : Word}

/-! ## Accesses and the event list -/

theorem State.setEvents_busAccess (es : List Event) (a : Access) (s : State) :
    (s.setEvents es).busAccess a = (s.busAccess a).setEvents es := by
  rw [State.busAccess, State.setEvents_afterAccess, State.setEvents_respond]
  rfl

theorem step_of_bus {a : Access} {es : List Event} (h : s.events = .bus a :: es) :
    step s = .next ((s.busAccess a).setEvents es) := by
  rw [step_of_cons h, takeTurn, State.setEvents_busAccess]

/-! ## Reads of STATUS -/

theorem State.statusWord_getLsbD_zero (s : State) : s.statusWord.getLsbD 0 = s.busy := by
  simp only [State.statusWord, bitOf, BitVec.getLsbD_setWidth, BitVec.getLsbD_append, BitVec.getLsbD_ofBool]
  simp

theorem State.statusWord_getLsbD_one (s : State) : s.statusWord.getLsbD 1 = s.done := by
  simp only [State.statusWord, bitOf, BitVec.getLsbD_setWidth, BitVec.getLsbD_append, BitVec.getLsbD_ofBool]
  simp

theorem State.respond_readStatus (s : State) : s.respond (readAccess 0x08) = ⟨false, some s.statusWord⟩ := by
  rw [respond_readAccess (by decide), regAt_status]
  rfl

/-- A read of STATUS changes the port alone (R55). -/
theorem State.busAccess_readStatus (s : State) :
    s.busAccess (readAccess 0x08) = s.setRsp ⟨false, some s.statusWord⟩ := by
  rw [State.busAccess, afterAccess_read rfl, State.respond_readStatus]

/-- A write to CMD of an idle core is taken (R190). -/
theorem State.busAccess_writeCmd_of_idle (h : s.busy = false) :
    s.busAccess (writeAccess 0x0C v) = (s.takeCommand v).setRsp ⟨false, none⟩ := by
  rw [State.busAccess, afterAccess_writeAccess (by decide), respond_writeAccess (by decide), regAt_cmd,
    State.writeReg, State.accept_of_idle v h]

/-! ## Completions -/

/-- Every command completes, and its completion commits (R191). -/
theorem exec_commits (i : Instr) (s : State) : ∃ code t, exec i s = .next t ∧ Committed code s t := by
  obtain ⟨e, h⟩ | ⟨-, h⟩ | ⟨-, h⟩ | ⟨w, len, V, -, -, h⟩ | ⟨d, -, h⟩ := exec_cases i s
  · exact ⟨_, _, h, committed_completeError e s⟩
  · exact ⟨_, _, h, committed_completeOk s⟩
  all_goals exact ⟨0, _, h, rfl, rfl, rfl, rfl, rfl, rfl, rfl, rfl⟩

theorem complete_commits (v : Word) (s : State) : ∃ code t, complete v s = .next t ∧ Committed code s t := by
  obtain ⟨e, h⟩ | ⟨i, -, h⟩ := complete_cases v s
  · exact ⟨_, _, h, committed_completeError e s⟩
  · rw [h]
    exact exec_commits i s

theorem Committed.busy {code : BitVec 4} (h : Committed code s t) : t.busy = false :=
  State.not_busy_iff.mpr h.pending

/-- The port's response and the event list replaced: what a completion does not look at. -/
def State.setPort (rsp : Option Response) (es : List Event) (s : State) : State := { s with rsp := rsp, events := es }

theorem blockCommand_setPort (f) (rsp : Option Response) (es : List Event) (s : State) :
    blockCommand f (s.setPort rsp es) = (blockCommand f s).setPort rsp es := by
  cases h : s.variant with
  | none => rw [blockCommand_of_none h, blockCommand_of_none (s := s.setPort rsp es) h]; rfl
  | some V => rw [blockCommand_of_some h, blockCommand_of_some (s := s.setPort rsp es) h]; rfl

/-- A completion carries the port and the event list along. -/
theorem exec_setPort {i : Instr} (rsp : Option Response) (es : List Event) (h : exec i s = .next t) :
    exec i (s.setPort rsp es) = .next (t.setPort rsp es) := by
  cases i with
  | keysetup w len =>
    cases hV : selectVariant w len with
    | none =>
      rw [exec_keysetup_of_none hV] at h ⊢
      cases h; rfl
    | some V =>
      rw [exec_keysetup_of_some hV] at h ⊢
      cases h; rfl
  | encrypt | decrypt =>
    cases h
    exact congrArg Host.Outcome.next (blockCommand_setPort _ rsp es s)
  | nop | roli w k | rori w k | rolv w | rorv w | fmix w | zeroize => cases h; rfl

/-! ## Turns of the host -/

variable {ops : List HostOp} {h : HostState} {o : HostOp}

theorem hostTurn_of_access {a : Access} (ho : ops[h.pc]? = some o) (ha : h.access o = some a) :
    hostTurn ops h s = some (h.receive (s.respond a) o, s.busAccess a) := by
  simp [hostTurn, ho, ha]

theorem hostTurn_of_no_access (ho : ops[h.pc]? = some o) (ha : h.access o = none) :
    hostTurn ops h s = (h.compute ops o).map fun h' => (h', s) := by
  simp [hostTurn, ho, ha]

/-- A turn at `wait` reads STATUS, and stays there while BUSY = 1 (R90; log 14). -/
theorem hostTurn_of_poll (ho : ops[h.pc]? = some .poll) :
    hostTurn ops h s = some (if s.busy then h else h.advance, s.setRsp ⟨false, some s.statusWord⟩) := by
  rw [hostTurn_of_access ho rfl, State.busAccess_readStatus, State.respond_readStatus, HostState.receive,
    Option.getD_some, State.statusWord_getLsbD_zero]

end Sys2Proof.Machine
end

section
/-! PROOF. Host statements act through the bus, and a `run` and a `wait` end with the command's completion (R11, R64,
R90). -/

namespace Sys2Proof.Machine

variable {s t : State} {v : Word}

/-- Settles O40: a statement's turn is its access, the event list plays no part in an access, and host computation hands the
core on as it is. -/
theorem hostStatementsActThroughTheBus : Obligations.HostStatementsActThroughTheBus := by
  refine ⟨fun ops h s o ho => ⟨fun a ha => ?access, fun ha h' u hturn => ?compute⟩, fun i => ⟨rfl, rfl⟩, rfl⟩
  case access => exact ⟨_, hostTurn_of_access ho ha, fun es => congrArg Host.Outcome.next (s.setEvents_busAccess es a)⟩
  case compute =>
    rw [hostTurn_of_no_access ho ha] at hturn
    obtain ⟨_, -, hpair⟩ := Option.map_eq_some_iff.mp hturn
    exact (congrArg Prod.snd hpair).symm

/-- While the command is pending the host's turns alone leave it at the `wait`. -/
theorem runSystem_polls {ops : List HostOp} {h : HostState} (ho : ops[h.pc]? = some .poll) (polls : Nat)
    (hs : s.pending = some v) :
    ∃ u, runSystem ops (List.replicate polls true) (h, s) = some (h, u) ∧ u.pending = some v := by
  induction polls generalizing s with
  | zero => exact ⟨s, rfl, hs⟩
  | succ n ih =>
    have hturn : hostTurn ops h s = some (h, s.setRsp ⟨false, some s.statusWord⟩) := by
      rw [hostTurn_of_poll ho, if_pos (State.busy_iff.mpr ⟨v, hs⟩)]
    rw [List.replicate_succ, runSystem, hturn]
    exact ih hs

/-- Settles O41: polls of a busy core by induction; the completion empties the slot, and the next poll sees it. -/
theorem waitEndsAfterTheCompletion : Obligations.WaitEndsAfterTheCompletion := by
  intro ops h s v ho hs
  refine ⟨fun polls => runSystem_polls ho polls hs, ?_⟩
  obtain ⟨code, t, hcomplete, hcommit⟩ := complete_commits v s
  refine ⟨t, t.setRsp ⟨false, some t.statusWord⟩, (coreTurn_of_pending hs).trans hcomplete, ?_, rfl⟩
  rw [hostTurn_of_poll ho, hcommit.busy]
  rfl

/-! ## The steps of a `run` -/

theorem step_acceptCmd {es : List Event} (hidle : s.pending = none) (h : s.events = .bus (writeAccess 0x0C v) :: es) :
    step s = .next ((s.takeCommand v).setPort (some ⟨false, none⟩) es) := by
  rw [step_of_bus h, State.busAccess_writeCmd_of_idle (State.not_busy_iff.mpr hidle)]
  rfl

theorem step_readStatus (rsp : Option Response) (es : List Event) (s : State) :
    step (s.setPort rsp (.bus (readAccess 0x08) :: es)) = .next (s.setPort (some ⟨false, some s.statusWord⟩) es) := by
  rw [step_of_bus (s := s.setPort rsp (.bus (readAccess 0x08) :: es)) rfl, State.busAccess_readStatus]
  rfl

/-- The polls of a run change the port alone. -/
theorem run_polls (polls n : Nat) (rsp : Option Response) (es : List Event) (s : State) :
    ∃ rsp', Sys2Proof.core.run (polls + n)
        (s.setPort rsp (List.replicate polls (.bus (readAccess 0x08)) ++ es)) =
      Sys2Proof.core.run n (s.setPort rsp' es) := by
  induction polls generalizing rsp with
  | zero => exact ⟨rsp, by rw [Nat.zero_add]; rfl⟩
  | succ k ih =>
    obtain ⟨rsp', hrun⟩ := ih (some ⟨false, some s.statusWord⟩)
    refine ⟨rsp', ?_⟩
    rw [Nat.add_right_comm, List.replicate_succ, List.cons_append, run_succ_of_next (step_readStatus rsp _ s), hrun]

/-- The core's turn of a run completes the command, since decoding its encoding gives it back. -/
theorem step_completeCmd {i : Instr} (hwf : i.wellFormed = true) (rsp : Option Response) (es : List Event)
    (hpending : s.pending = some (encode i)) (hexec : exec i s = .next t) :
    step (s.setPort rsp (.core :: es)) = .next (t.setPort rsp es) := by
  calc step (s.setPort rsp (.core :: es))
    _ = coreTurn (s.setPort rsp es) := step_of_cons (e := .core) rfl
    _ = complete (encode i) (s.setPort rsp es) := coreTurn_of_pending hpending
    _ = exec i (s.setPort rsp es) := complete_of_ok (decodeOfEncodeIsTheCommand i hwf)
    _ = .next (t.setPort rsp es) := exec_setPort rsp es hexec

/-- Settles O39: acceptance, the polls, the completion by `decode (encode i) = i`, and the last read, one after the other. -/
theorem runCompletesTheCommand : Obligations.RunCompletesTheCommand := by
  intro s i polls es hwf hidle hevents
  obtain ⟨code, t, hexec, hcommit⟩ := exec_commits i (s.takeCommand (encode i))
  refine ⟨t, hexec, ?_, ?_, ?_⟩
  · obtain ⟨rsp, hpolls⟩ := run_polls polls 2 (some ⟨false, none⟩) (.core :: .bus (readAccess 0x08) :: es)
      (s.takeCommand (encode i))
    have haccept := step_acceptCmd (v := encode i) hidle
      (es := List.replicate polls (.bus (readAccess 0x08)) ++ .core :: .bus (readAccess 0x08) :: es)
      (by simp [hevents, runEvents])
    rw [run_succ_of_next haccept, hpolls, run_succ_of_next (step_completeCmd hwf rsp _ rfl hexec),
      run_succ_of_next (step_readStatus rsp es t)]
    rfl
  · rw [State.statusWord_getLsbD_zero, hcommit.busy]
  · rw [State.statusWord_getLsbD_one, hcommit.done]

end Sys2Proof.Machine
end

section
/-! SUPPORT. Reading back the text of an assembler line: tokens, names, decimal numbers (R89; log 15). -/

namespace Sys2Proof.Machine

/-! ## Cutting a text -/

theorem cutAt_of_notMem {c : Char} {cs : List Char} (h : c ∉ cs) : cutAt c cs = (cs, none) := by
  induction cs with
  | nil => rfl
  | cons x xs ih =>
    obtain ⟨hx, hxs⟩ := List.ne_and_not_mem_of_not_mem_cons h
    rw [cutAt, if_neg (Ne.symm hx), ih hxs]

theorem cutAt_append {c : Char} {cs : List Char} (h : c ∉ cs) (rest : List Char) :
    cutAt c (cs ++ c :: rest) = (cs, some rest) := by
  induction cs with
  | nil => rw [List.nil_append, cutAt, if_pos rfl]
  | cons x xs ih =>
    obtain ⟨hx, hxs⟩ := List.ne_and_not_mem_of_not_mem_cons h
    rw [List.cons_append, cutAt, if_neg (Ne.symm hx), ih hxs]

theorem tokens_space (cs : List Char) : tokens (' ' :: cs) = tokens cs := by
  rw [tokens.eq_def]
  exact if_pos rfl

theorem tokens_single {x : Char} (hx : ' ' ≠ x) : tokens [x] = [[x]] := by
  rw [tokens, if_neg hx.symm]

theorem tokens_cons_space {x : Char} (hx : ' ' ≠ x) (cs : List Char) : tokens (x :: ' ' :: cs) = [x] :: tokens cs := by
  rw [tokens.eq_def]
  simp only [if_neg hx.symm, tokens_space]
  cases tokens cs <;> rfl

/-- A character joins the token that begins after it. -/
theorem tokens_cons_cons {x y : Char} {cs t : List Char} {ts : List (List Char)} (hx : ' ' ≠ x) (hy : ' ' ≠ y)
    (h : tokens (y :: cs) = t :: ts) : tokens (x :: y :: cs) = (x :: t) :: ts := by
  rw [tokens.eq_def]
  simp only [if_neg hx.symm, h, if_neg hy.symm]

/-- A text without spaces is one token. -/
theorem tokens_of_notMem_space {cs : List Char} (hne : cs ≠ []) (h : ' ' ∉ cs) : tokens cs = [cs] := by
  induction cs with
  | nil => exact absurd rfl hne
  | cons x xs ih =>
    obtain ⟨hx, hxs⟩ := List.ne_and_not_mem_of_not_mem_cons h
    cases xs with
    | nil => exact tokens_single hx
    | cons y ys =>
      exact tokens_cons_cons hx (List.ne_of_not_mem_cons hxs) (ih (List.cons_ne_nil y ys) hxs)

/-- A space ends the first token. -/
theorem tokens_append_space {cs : List Char} (hne : cs ≠ []) (h : ' ' ∉ cs) (rest : List Char) :
    tokens (cs ++ ' ' :: rest) = cs :: tokens rest := by
  induction cs with
  | nil => exact absurd rfl hne
  | cons x xs ih =>
    obtain ⟨hx, hxs⟩ := List.ne_and_not_mem_of_not_mem_cons h
    cases xs with
    | nil => exact tokens_cons_space hx rest
    | cons y ys =>
      exact tokens_cons_cons hx (List.ne_of_not_mem_cons hxs) (ih (List.cons_ne_nil y ys) hxs)

/-! ## Decimal numbers -/

theorem digitValue_of_isDigit {c : Char} (h : c.isDigit = true) : digitValue 10 c = some (c.toNat - 48) := by
  obtain ⟨hlo, hhi⟩ := Char.isDigit_iff_toNat.mp h
  simp only [digitValue]
  grind

theorem digitsValue_of_isDigit {cs : List Char} (hne : cs ≠ []) (h : ∀ c ∈ cs, c.isDigit = true) :
    digitsValue 10 cs = some (Nat.ofDigitChars 10 cs 0) := by
  have hfold (a : Nat) : cs.foldl (fun acc d => acc.bind fun a => (digitValue 10 d).map (a * 10 + ·)) (some a) =
      some (Nat.ofDigitChars 10 cs a) := by
    clear hne
    induction cs generalizing a with
    | nil => rfl
    | cons c cs ih =>
      obtain ⟨hc, hcs⟩ := List.forall_mem_cons.mp h
      rw [List.foldl_cons, Option.bind_some, digitValue_of_isDigit hc, Option.map_some, ih hcs,
        Nat.ofDigitChars_cons, Nat.mul_comm a]
      rfl
  cases cs with
  | nil => exact absurd rfl hne
  | cons c cs => exact hfold 0

/-- A row of decimal digits does not begin with `0x`. -/
theorem numberValue_of_isDigit {cs : List Char} (h : ∀ c ∈ cs, c.isDigit = true) :
    numberValue cs = digitsValue 10 cs := by
  unfold numberValue
  split
  · exact absurd (h 'x' (by simp)) (by decide)
  · rfl

theorem numberValue_toDigits (n : Nat) : numberValue (Nat.toDigits 10 n) = some n := by
  have hdigit (c : Char) (hc : c ∈ Nat.toDigits 10 n) : c.isDigit = true :=
    Nat.isDigit_of_mem_toDigits (by decide) (by decide) hc
  rw [numberValue_of_isDigit hdigit, digitsValue_of_isDigit Nat.toDigits_ne_nil hdigit, Nat.ofDigitChars_ten_toDigits]

theorem space_notMem_toDigits (n : Nat) : ' ' ∉ Nat.toDigits 10 n := fun h =>
  absurd (Nat.isDigit_of_mem_toDigits (by decide) (by decide) h) (by decide)

/-! ## Names -/

theorem Mnemonic.letters_ne_nil (m : Mnemonic) : m.letters ≠ [] := by cases m <;> decide

theorem Mnemonic.dot_notMem_letters (m : Mnemonic) : '.' ∉ m.letters := by cases m <;> decide

theorem Mnemonic.space_notMem_letters (m : Mnemonic) : ' ' ∉ m.letters := by cases m <;> decide

theorem Suffix.space_notMem_letters (f : Suffix) : ' ' ∉ f.letters := by cases f <;> decide

/-- The letters of a mnemonic are its own. -/
theorem Mnemonic.find_letters (m : Mnemonic) : (mnemonics.find? fun m' => m'.letters = m.letters) = some m := by
  cases m <;> decide

theorem Suffix.find_letters (f : Suffix) : (suffixes.find? fun f' => f'.letters = f.letters) = some f := by
  cases f <;> decide

/-- The characters of a name with its suffix, if it has one (R89). -/
def nameText (m : Mnemonic) : Option Suffix → List Char
  | none => m.letters
  | some f => m.letters ++ '.' :: f.letters

theorem parseName_nameText (m : Mnemonic) (f : Option Suffix) : parseName (nameText m f) = some (m, f) := by
  cases f with
  | none => simp only [parseName, nameText, cutAt_of_notMem m.dot_notMem_letters, m.find_letters, Option.map_some]
  | some f =>
    simp only [parseName, nameText, cutAt_append m.dot_notMem_letters, m.find_letters, f.find_letters, Option.map_some,
      Option.bind_some]

theorem nameText_ne_nil (m : Mnemonic) (f : Option Suffix) : nameText m f ≠ [] := by
  cases f <;> simp [nameText, m.letters_ne_nil]

theorem space_notMem_nameText (m : Mnemonic) (f : Option Suffix) : ' ' ∉ nameText m f := by
  cases f <;> simp [nameText, m.space_notMem_letters, Suffix.space_notMem_letters]

/-! ## Lines -/

variable {m : Mnemonic} {f : Option Suffix} {n : Nat} {w : Width}

theorem AsmLine.text_without_imm : (AsmLine.mk m f none).text = nameText m f := by
  cases f <;> simp [AsmLine.text, nameText]

theorem AsmLine.text_with_imm : (AsmLine.mk m f (some n)).text = nameText m f ++ ' ' :: '#' :: Nat.toDigits 10 n := by
  cases f <;> simp [AsmLine.text, nameText]

/-- A line is read back from its text, whatever its number. -/
theorem parseLine_text (l : AsmLine) : parseLine l.text = some l := by
  obtain ⟨m, f, _ | n⟩ := l
  · rw [AsmLine.text_without_imm, parseLine, tokens_of_notMem_space (nameText_ne_nil m f) (space_notMem_nameText m f)]
    simp only [parseName_nameText, Option.map_some]
  · have himm : tokens ('#' :: Nat.toDigits 10 n) = ['#' :: Nat.toDigits 10 n] :=
      tokens_of_notMem_space (List.cons_ne_nil _ _) (by simp [space_notMem_toDigits])
    rw [AsmLine.text_with_imm, parseLine, tokens_append_space (nameText_ne_nil m f) (space_notMem_nameText m f), himm]
    simp only [parseName_nameText, parseImm, numberValue_toDigits, Option.bind_some, Option.map_some]

end Sys2Proof.Machine
end

section
/-! PROOF. The lines the assembler accepts are the lines of the well-formed commands (R89). -/

namespace Sys2Proof.Machine

variable {i : Instr} {w : Width} {f : Suffix} {n k : Nat}

theorem blockSuffix_eq_some_iff : blockSuffix f = some w ↔ f = suffixOfBlock w := by
  cases f <;> cases w <;> decide

theorem wordSuffix_eq_some_iff : wordSuffix f = some w ↔ f = suffixOfWord w := by
  cases f <;> cases w <;> decide

theorem smallImm_eq_some_iff : smallImm n = some k ↔ n = k ∧ decide (k ≤ maxImm) = true := by
  unfold smallImm
  split <;> grind

/-- A suffix and a number are accepted together when each is (R89). -/
theorem suffix_and_imm_eq_some_iff {suffix : Suffix → Option Width} {mk : Width → Nat → Instr} :
    ((suffix f).bind fun w => (smallImm n).map fun k => mk w k) = some i ↔
      ∃ w, suffix f = some w ∧ decide (n ≤ maxImm) = true ∧ mk w n = i := by
  simp only [Option.bind_eq_some_iff, Option.map_eq_some_iff, smallImm_eq_some_iff]
  grind

theorem assemble_lineOf (h : i.wellFormed = true) : assemble (lineOf i) = some i := by
  cases i with
  | nop | encrypt | decrypt | zeroize => rfl
  | keysetup w k => exact suffix_and_imm_eq_some_iff.mpr ⟨w, blockSuffix_eq_some_iff.mpr rfl, h, rfl⟩
  | roli w k | rori w k => exact suffix_and_imm_eq_some_iff.mpr ⟨w, wordSuffix_eq_some_iff.mpr rfl, h, rfl⟩
  | rolv w | rorv w | fmix w => exact Option.map_eq_some_iff.mpr ⟨w, wordSuffix_eq_some_iff.mpr rfl, rfl⟩

/-- An accepted line has the form of its command's line (R89). -/
theorem lineOf_of_assemble {l : AsmLine} (h : assemble l = some i) : i.wellFormed = true ∧ lineOf i = l := by
  obtain ⟨m, f, n⟩ := l
  unfold assemble at h
  split at h
  case h_11 => cases h
  case h_1 hm hf hn | h_2 hm hf hn | h_3 hm hf hn | h_4 hm hf hn =>
    cases hm; cases hf; cases hn; cases h
    exact ⟨rfl, rfl⟩
  case h_5 hm hf hn =>
    cases hm; cases hf; cases hn
    obtain ⟨w, hw, himm, rfl⟩ := suffix_and_imm_eq_some_iff.mp h
    obtain rfl := blockSuffix_eq_some_iff.mp hw
    exact ⟨himm, rfl⟩
  case h_6 hm hf hn | h_7 hm hf hn =>
    cases hm; cases hf; cases hn
    obtain ⟨w, hw, himm, rfl⟩ := suffix_and_imm_eq_some_iff.mp h
    obtain rfl := wordSuffix_eq_some_iff.mp hw
    exact ⟨himm, rfl⟩
  case h_8 hm hf hn | h_9 hm hf hn | h_10 hm hf hn =>
    cases hm; cases hf; cases hn
    obtain ⟨w, hw, rfl⟩ := Option.map_eq_some_iff.mp h
    obtain rfl := wordSuffix_eq_some_iff.mp hw
    exact ⟨rfl, rfl⟩

/-- Settles O6: a line is read back from its text, and each accepted form is the line of its command. -/
theorem assemblerLinesAreTheCommands : Obligations.AssemblerLinesAreTheCommands := by
  refine ⟨fun i h => ⟨assemble_lineOf h, ?_⟩, fun l i => lineOf_of_assemble⟩
  rw [assembleText, parseLine_text, Option.bind_some, assemble_lineOf h, Option.map_some]

end Sys2Proof.Machine
end

section
/-! SUPPORT. The rotator and the round helper f, bit by bit, at every width (R100 to R103). -/

namespace Sys2Proof.Machine

variable {n k i : Nat}

/-! ## The rotator is the library's rotation, for the amounts below the width -/

theorem rol_eq_rotateLeft (v : BitVec n) (hk : k < n) : rol v k = v.rotateLeft k := by
  rw [rol, BitVec.rotateLeft_def, Nat.mod_eq_of_lt hk]
  split
  case isTrue h => simp [h, BitVec.ushiftRight_eq_zero (Nat.le_refl n)]
  case isFalse => rfl

theorem ror_eq_rotateRight (v : BitVec n) (hk : k < n) : ror v k = v.rotateRight k := by
  rw [ror, BitVec.rotateRight_def, Nat.mod_eq_of_lt hk]
  split
  case isTrue h => simp [h]
  case isFalse => rfl

@[simp] theorem rol_zero (v : BitVec n) : rol v 0 = v := rfl

@[simp] theorem ror_zero (v : BitVec n) : ror v 0 = v := rfl

/-! ## Bits -/

/-- The k low bits of the result come from the top of the word, the others from k places below (R100). -/
theorem rol_getLsbD (v : BitVec n) (hk : k < n) (hi : i < n) :
    (rol v k).getLsbD i = v.getLsbD ((i + n - k) % n) := by
  rw [rol_eq_rotateLeft v hk, BitVec.getLsbD_rotateLeft_of_le hk]
  by_cases hik : i < k
  · have hplace : (i + n - k) % n = n - k + i := by rw [Nat.mod_eq_of_lt] <;> omega
    simp [hik, hplace]
  · have hplace : (i + n - k) % n = i - k := by rw [Nat.mod_eq_sub_mod, Nat.mod_eq_of_lt] <;> omega
    simp [hik, hi, hplace]

/-- The k high bits of the result come from the bottom of the word, the others from k places above (R101). -/
theorem ror_getLsbD (v : BitVec n) (hk : k < n) (hi : i < n) : (ror v k).getLsbD i = v.getLsbD ((i + k) % n) := by
  rw [ror_eq_rotateRight v hk, BitVec.getLsbD_rotateRight, Nat.mod_eq_of_lt hk]
  by_cases hik : i < n - k
  · have hplace : (i + k) % n = k + i := by rw [Nat.mod_eq_of_lt] <;> omega
    simp [hik, hplace]
  · have hplace : (i + k) % n = i - (n - k) := by rw [Nat.mod_eq_sub_mod, Nat.mod_eq_of_lt] <;> omega
    simp [hik, hi, hplace]

/-- A right rotation is the left rotation by the rest of the width (R101). -/
theorem ror_eq_rol (v : BitVec n) (hk : k < n) : ror v k = rol v ((n - k) % n) := by
  have hrest : (n - k) % n < n := Nat.mod_lt _ (by omega)
  refine BitVec.eq_of_getLsbD_eq fun i hi => ?_
  rw [ror_getLsbD v hk hi, rol_getLsbD v hrest hi]
  by_cases h0 : k = 0
  · simp [h0]
  · have hplace : i + n - (n - k) % n = i + k := by rw [Nat.mod_eq_of_lt] <;> omega
    rw [hplace]

/-- Every bit of f: two rotations, by 1 and by 8, meet in the AND, the one by 2 in the XOR (R103). -/
theorem mix_getLsbD (v : BitVec n) (hn : 8 < n) (hi : i < n) :
    (mix v).getLsbD i = ((v.getLsbD ((i + n - 1) % n) && v.getLsbD ((i + n - 8) % n)) ^^ v.getLsbD ((i + n - 2) % n)) := by
  rw [mix, BitVec.getLsbD_xor, BitVec.getLsbD_and, rol_getLsbD v (by omega) hi, rol_getLsbD v hn hi,
    rol_getLsbD v (by omega) hi]

/-! ## Numbers -/

/-- Two shifts and an OR, computed on numbers: the mask keeps the low n bits (R100, R101). -/
theorem toNat_shiftLeft_or_ushiftRight (v : BitVec n) (a b : Nat) :
    ((v <<< a) ||| (v >>> b)).toNat = ((v.toNat <<< a) ||| (v.toNat >>> b)) &&& (2 ^ n - 1) := by
  have hlow : v.toNat >>> b < 2 ^ n := (v >>> b).isLt
  rw [BitVec.toNat_or, BitVec.toNat_shiftLeft, BitVec.toNat_ushiftRight, Nat.and_two_pow_sub_one_eq_mod,
    Nat.or_mod_two_pow, Nat.mod_eq_of_lt hlow]

theorem rol_toNat (v : BitVec n) (hk : k ≠ 0) :
    (rol v k).toNat = ((v.toNat <<< k) ||| (v.toNat >>> (n - k))) &&& (2 ^ n - 1) := by
  rw [rol, if_neg hk, toNat_shiftLeft_or_ushiftRight]

theorem ror_toNat (v : BitVec n) (hk : k ≠ 0) :
    (ror v k).toNat = ((v.toNat >>> k) ||| (v.toNat <<< (n - k))) &&& (2 ^ n - 1) := by
  rw [ror, if_neg hk, BitVec.or_comm, toNat_shiftLeft_or_ushiftRight, Nat.or_comm]

/-! ## Words without a distinguished place -/

theorem mix_zero : mix (0 : BitVec n) = 0 := by
  simp [mix, rol]

theorem rol_allOnes (hk : k < n) : rol (BitVec.allOnes n) k = BitVec.allOnes n := by
  refine BitVec.eq_of_getLsbD_eq fun i hi => ?_
  have hplace : (i + n - k) % n < n := Nat.mod_lt _ (by omega)
  rw [rol_getLsbD _ hk hi]
  simp [hi, hplace]

theorem mix_allOnes (hn : 8 < n) : mix (BitVec.allOnes n) = 0 := by
  rw [mix, rol_allOnes (by omega), rol_allOnes hn, rol_allOnes (by omega), BitVec.and_self, BitVec.xor_self]
  rfl

/-! ## The two widths -/

theorem eight_lt_bits (w : Width) : 8 < w.bits := by cases w <;> decide

theorem reduceAmount_lt (w : Width) (a : Nat) : reduceAmount w a < w.bits :=
  Nat.mod_lt _ (Nat.zero_lt_of_lt (eight_lt_bits w))

end Sys2Proof.Machine
end

section
/-! PROOF. The rotator and the round helper f as functions on words (R100, R101, R103). -/

namespace Sys2Proof.Machine

/-- Settles O7: ROL is the library's left rotation for amounts below the width. -/
theorem rotateLeftMovesEveryBit : Obligations.RotateLeftMovesEveryBit := fun _ v _ hk =>
  ⟨rol_toNat v, rol_zero v, fun _ hi => rol_getLsbD v hk hi⟩

/-- Settles O8: ROR is the library's right rotation, and agrees bit by bit with the left rotation by w - k. -/
theorem rotateRightMovesEveryBit : Obligations.RotateRightMovesEveryBit := fun _ v _ hk =>
  ⟨ror_toNat v, ror_zero v, fun _ hi => ror_getLsbD v hk hi, ror_eq_rol v hk⟩

/-- Settles O10: each bit of f from the bits of its three rotations, which leave 0 and all ones as they are. -/
theorem mixOfEveryBit : Obligations.MixOfEveryBit :=
  ⟨fun w v => ⟨rfl, fun _ hi => mix_getLsbD v (eight_lt_bits w) hi⟩, fun w => ⟨mix_zero, mix_allOnes (eight_lt_bits w)⟩,
    by decide, by decide⟩

end Sys2Proof.Machine
end

section
/-! PROOF. The word commands: what each completes with, every bit of its result, and the reduction of the amounts
(R102, R105 to R110). -/

namespace Sys2Proof.Machine

variable {i : Instr} {w : Width} {s : State}

/-! ## All word commands at once -/

theorem xOperand_wordResult (w : Width) (r : BitVec w.bits) : xOperand w (wordResult w r) = r := by
  cases w with
  | w32 => rfl
  | w64 => exact BitVec.extractLsb'_append_extractLsb'

theorem xOperand_wordCommand (w : Width) (op : BitVec w.bits → BitVec w.bits) (s : State) :
    xOperand w (wordCommand w op s).dout = op (xOperand w s.din) :=
  xOperand_wordResult w _

theorem wordCommand_committed (w : Width) (op : BitVec w.bits → BitVec w.bits) (s : State) :
    Committed 0 s (wordCommand w op s) :=
  ⟨rfl, rfl, rfl, rfl, rfl, rfl, rfl, rfl⟩

theorem wordCommand_sameInputs (w : Width) (op : BitVec w.bits → BitVec w.bits) (s : State) :
    SameInputs s (wordCommand w op s) :=
  ⟨rfl, rfl, rfl, rfl⟩

/-- The registers of DOUT beyond the result word are 0 (R60, R105). -/
theorem wordCommand_zeroFill (w : Width) (op : BitVec w.bits → BitVec w.bits) (s : State) :
    (w = .w32 → (wordCommand w op s).dout[1] = 0) ∧ (wordCommand w op s).dout[2] = 0 ∧
      (wordCommand w op s).dout[3] = 0 := by
  cases w with
  | w32 => exact ⟨fun _ => rfl, rfl, rfl⟩
  | w64 => exact ⟨nofun, rfl, rfl⟩

/-- A word command completes on every state, writes DOUT alone, and each bit of its result is the bit of its function of
the operand (R105). -/
theorem exec_wordCommand_completes {op : BitVec w.bits → BitVec w.bits} {bit : Nat → Bool}
    (hexec : exec i s = .next (wordCommand w op s)) (hbit : ∀ j < w.bits, (op (xOperand w s.din)).getLsbD j = bit j) :
    ∃ t, exec i s = .next t ∧ Committed 0 s t ∧ SameInputs s t ∧
      (∀ j < w.bits, (xOperand w t.dout).getLsbD j = bit j) ∧
      (w = .w32 → t.dout[1] = 0) ∧ t.dout[2] = 0 ∧ t.dout[3] = 0 := by
  refine ⟨_, hexec, wordCommand_committed w op s, wordCommand_sameInputs w op s, ?_, wordCommand_zeroFill w op s⟩
  rw [xOperand_wordCommand]
  exact hbit

/-! ## Rotation amounts -/

/-- The variable rotations are the constant ones by ROTAMT (R108, R109). -/
theorem exec_rolv_eq_exec_roli : exec (.rolv w) s = exec (.roli w s.rotamt.toNat) s :=
  exec_rolv.trans exec_roli.symm

theorem exec_rorv_eq_exec_rori : exec (.rorv w) s = exec (.rori w s.rotamt.toNat) s :=
  exec_rorv.trans exec_rori.symm

/-- Only the reduced amount counts (R102, R106). -/
theorem exec_roli_congr {a b : Nat} (h : reduceAmount w a = reduceAmount w b) :
    exec (.roli w a) s = exec (.roli w b) s := by
  rw [exec_roli, exec_roli, h]

theorem exec_rori_congr {a b : Nat} (h : reduceAmount w a = reduceAmount w b) :
    exec (.rori w a) s = exec (.rori w b) s := by
  rw [exec_rori, exec_rori, h]

theorem reduceAmount_eq_zero {a : Nat} (h : a = 0 ∨ a = w.bits) : reduceAmount w a = 0 := by
  obtain rfl | rfl := h
  · exact Nat.zero_mod _
  · exact Nat.mod_self _

theorem reduceAmount_of_lt {a : Nat} (h : a < w.bits) : reduceAmount w a = a := Nat.mod_eq_of_lt h

/-- At w = 32 the rotator uses a[4:0] (R102). -/
theorem reduceAmount_w32 (a : BitVec 6) : reduceAmount .w32 a.toNat = (a.extractLsb' 0 5).toNat := by
  rw [BitVec.extractLsb'_toNat, Nat.shiftRight_zero]
  rfl

/-- At w = 64 the rotator uses the whole of a[5:0] (R102). -/
theorem reduceAmount_w64 (a : BitVec 6) : reduceAmount .w64 a.toNat = a.toNat := reduceAmount_of_lt a.isLt

/-- Settles O9: the amounts 0 and w reduce to 0, 40 and 8 to the same at w = 32, and the constants are below both widths. -/
theorem rotationAmountsReduceModuloTheWidth : Obligations.RotationAmountsReduceModuloTheWidth := by
  refine ⟨fun _ _ => rfl, reduceAmount_w32, reduceAmount_w64, fun w s a ha => ?_,
    fun s => ⟨exec_roli_congr rfl, exec_rori_congr rfl⟩, fun w s => ⟨exec_rolv_eq_exec_roli, exec_rorv_eq_exec_rori⟩,
    fun w a ha => ?_⟩
  · refine ⟨_, _, exec_roli, exec_rori, ?_, ?_⟩
    · rw [xOperand_wordCommand, reduceAmount_eq_zero ha, rol_zero]
    · rw [xOperand_wordCommand, reduceAmount_eq_zero ha, ror_zero]
  · have hle : a ≤ 8 := by revert a; decide
    exact reduceAmount_of_lt (Nat.lt_of_le_of_lt hle (eight_lt_bits w))

/-! ## The commands -/

/-- Settles O28: both are word commands, by the amount modulo w. -/
theorem constantRotationsComplete : Obligations.ConstantRotationsComplete := by
  intro w k s
  constructor
  · exact exec_wordCommand_completes exec_roli fun j hj => rol_getLsbD _ (reduceAmount_lt w k) hj
  · refine exec_wordCommand_completes exec_rori fun j hj => ?_
    rw [ror_getLsbD _ (reduceAmount_lt w k) hj, reduceAmount, Nat.add_mod_mod]

/-- Settles O29: they are the constant rotations by ROTAMT. -/
theorem variableRotationsComplete : Obligations.VariableRotationsComplete := by
  intro w s
  rw [exec_rolv_eq_exec_roli, exec_rorv_eq_exec_rori]
  exact constantRotationsComplete w s.rotamt.toNat s

/-- Settles O30: FMIX is a word command by f. -/
theorem fmixCompletes : Obligations.FmixCompletes := fun w _ =>
  exec_wordCommand_completes exec_fmix fun _ hj => mix_getLsbD _ (eight_lt_bits w) hj

end Sys2Proof.Machine
end

section
/-! SUPPORT. The key schedule as one list of bit terms (R136, R137), and each derived key from the keys before it
(R134, R135, R138). -/

namespace Sys2Proof.Machine

variable {n m i j : Nat} {V : Variant}

/-! ## The bit terms of all derived keys -/

/-- The first `count` bits of z, the lowest first (R136, R138). -/
def zTerms (count : Nat) (z : BitVec 64) : List (BitVec 1) :=
  (List.range count).map fun i => BitVec.ofBool (z.getLsbD i)

/-- The bit term of every derived key, those from z first and then the literal ones (R136, R137). -/
def bitTerms (V : Variant) : List (BitVec 1) := zTerms (V.zEnd - V.keyWords) V.z ++ V.tail

theorem zTerms_succ (count : Nat) (z : BitVec 64) :
    zTerms (count + 1) z = z.extractLsb' 0 1 :: zTerms count (z >>> 1) := by
  have hlow : BitVec.ofBool (z.getLsbD 0) = z.extractLsb' 0 1 := by
    refine BitVec.eq_of_getLsbD_eq fun j hj => ?_
    obtain rfl : j = 0 := by omega
    simp
  have hnext : ∀ i, z.getLsbD (i + 1) = (z >>> 1).getLsbD i := fun i => by
    rw [BitVec.getLsbD_ushiftRight, Nat.add_comm]
  simp only [zTerms, List.range_succ_eq_map, List.map_cons, List.map_map, Function.comp_def, Nat.succ_eq_add_one,
    hlow, hnext]

theorem expandZ_eq_expandTail (m count : Nat) (z : BitVec 64) (ks : List (BitVec n)) :
    expandZ m count z ks = expandTail m (zTerms count z) ks := by
  induction count generalizing z ks with
  | zero => rfl
  | succ count ih => rw [zTerms_succ, expandZ, expandTail, ih]

theorem expandTail_append (m : Nat) (bs bs' : List (BitVec 1)) (ks : List (BitVec n)) :
    expandTail m (bs ++ bs') ks = expandTail m bs' (expandTail m bs ks) := by
  induction bs generalizing ks with
  | nil => rfl
  | cons b bs ih => exact ih _

/-- A schedule is one run of the expander over all bit terms. -/
theorem expand_eq_expandTail (V : Variant) (uk : List (BitVec n)) :
    expand V uk = (expandTail V.keyWords (bitTerms V) uk).reverse := by
  rw [expand, expandZ_eq_expandTail, seedKeys, List.reverse_reverse, bitTerms, expandTail_append]

/-! ## The expander's window -/

/-- The expander only puts new keys in front. -/
theorem suffix_expandTail (m : Nat) (bs : List (BitVec 1)) (ks : List (BitVec n)) : ks <:+ expandTail m bs ks := by
  induction bs generalizing ks with
  | nil => exact List.suffix_rfl
  | cons b bs ih => exact (List.suffix_cons _ ks).trans (ih _)

/-- Each bit term derives one key, put in front of the window of that moment. -/
theorem exists_window_of_getElem? {bs : List (BitVec 1)} {b : BitVec 1} (hb : bs[i]? = some b) (m : Nat)
    (ks : List (BitVec n)) :
    ∃ window, window.length = i + ks.length ∧ deriveKey m b window :: window <:+ expandTail m bs ks := by
  induction bs generalizing i ks with
  | nil => simp at hb
  | cons b' bs ih =>
    cases i with
    | zero =>
      obtain rfl : b' = b := by simpa using hb
      exact ⟨ks, (Nat.zero_add _).symm, suffix_expandTail m bs _⟩
    | succ i =>
      obtain ⟨window, hlength, hsuffix⟩ := ih (by simpa using hb) (deriveKey m b' ks :: ks)
      exact ⟨window, by rw [hlength, List.length_cons]; omega, hsuffix⟩

/-- k[i-j] in a window of length i is that key of the whole schedule. -/
theorem keyBack_eq_getD {window ks : List (BitVec n)} (h : window <:+ ks) (hj : 0 < j) (hle : j ≤ window.length) :
    keyBack window j = ks.reverse.getD (window.length - j) 0 := by
  obtain ⟨newer, rfl⟩ := h
  have hplace : window.length - 1 - (window.length - j) = j - 1 := by omega
  rw [keyBack, List.reverse_append, List.getD_append _ _ _ _ (by rw [List.length_reverse]; omega),
    List.getD_reverse _ (by omega), hplace]

/-- tmp of index i, by the keys' own indices (R134, R135). -/
def recurrenceTmpAt (m : Nat) (k : Nat → BitVec n) (i : Nat) : BitVec n :=
  if m = 4 then ror (k (i - 1)) 3 ^^^ k (i - 3) ^^^ ror (k (i - 1)) 4 ^^^ ror (k (i - 3)) 1
  else ror (k (i - 1)) 3 ^^^ ror (k (i - 1)) 4

theorem recurrenceTmp_eq_recurrenceTmpAt {window ks : List (BitVec n)} (h : window <:+ ks) (hm : 0 < m)
    (hle : m ≤ window.length) :
    recurrenceTmp m window = recurrenceTmpAt m (fun i => ks.reverse.getD i 0) window.length := by
  rw [recurrenceTmp, recurrenceTmpAt, keyBack_eq_getD h Nat.one_pos (by omega)]
  split
  · rw [keyBack_eq_getD h (by decide : 0 < 3) (by omega)]
  · rfl

theorem keyWords_pos (V : Variant) : 0 < V.keyWords := by cases V <;> decide

theorem setWidth_ofBool (w : Nat) (b : Bool) : (BitVec.ofBool b).setWidth w = BitVec.ofNat w b.toNat := by
  cases b <;> exact BitVec.eq_of_toNat_eq (by simp)

/-- Every derived key is c, its bit term, k[i-m] and tmp (R134, R135). -/
theorem expand_getD_of_bitTerms {uk : List (BitVec n)} {b : Bool} (huk : uk.length = V.keyWords)
    (hb : (bitTerms V)[i]? = some (BitVec.ofBool b)) :
    (expand V uk).getD (i + V.keyWords) 0 = ~~~3#n ^^^ BitVec.ofNat n b.toNat ^^^ (expand V uk).getD i 0 ^^^
      recurrenceTmpAt V.keyWords (fun i => (expand V uk).getD i 0) (i + V.keyWords) := by
  obtain ⟨window, hlength, hsuffix⟩ := exists_window_of_getElem? hb V.keyWords uk
  have hwindow := (List.suffix_cons _ window).trans hsuffix
  have hle : V.keyWords ≤ window.length := by omega
  have hback : window.length - V.keyWords = i := by omega
  rw [huk] at hlength
  rw [expand_eq_expandTail, ← hlength, ← recurrenceTmp_eq_recurrenceTmpAt hwindow (keyWords_pos V) hle, ← hback,
    ← keyBack_eq_getD hwindow (keyWords_pos V) hle, ← setWidth_ofBool]
  exact (keyBack_eq_getD hsuffix Nat.one_pos (Nat.le_add_left 1 _)).symm

/-! ## Which bit each term is -/

theorem keyWords_add_bitTerms_length (V : Variant) : V.keyWords + (bitTerms V).length = V.rounds := by
  cases V <;> rfl

/-- Literal terms follow only where z has been read to its last bit (R136, R137). -/
theorem tail_eq_nil_or_zRange_eq (V : Variant) : V.tail = [] ∨ V.zEnd - V.keyWords = 64 := by
  cases V with
  | simon64_96 | simon64_128 => exact .inl rfl
  | simon128_128 | simon128_192 | simon128_256 => exact .inr rfl

theorem zRange_le (V : Variant) : V.zEnd - V.keyWords ≤ 64 := by cases V <;> decide

theorem z_repeats (V : Variant) : V.z.getLsbD 62 = V.z.getLsbD 0 ∧ V.z.getLsbD 63 = V.z.getLsbD 1 := by
  cases V <;> decide

theorem tail_length_le (V : Variant) : V.tail.length ≤ 4 := by cases V <;> decide

/-- The literal terms are bits 2, 3, 4 and 5 of z: its period goes on after the repeated bits 62 and 63 (R137, R139). -/
theorem getElem?_tail (V : Variant) :
    ∀ j < V.tail.length, V.tail[j]? = some (BitVec.ofBool (V.z.getLsbD (2 + j))) := by
  cases V <;> decide

/-- What describes the terms from z and the literal ones describes all terms. -/
theorem getElem?_bitTerms {f : Nat → Bool} (hz : ∀ i < V.zEnd - V.keyWords, V.z.getLsbD i = f i)
    (htail : ∀ j < V.tail.length, V.tail[j]? = some (BitVec.ofBool (f (V.zEnd - V.keyWords + j))))
    (hi : i + V.keyWords < V.rounds) : (bitTerms V)[i]? = some (BitVec.ofBool (f i)) := by
  have hrounds := keyWords_add_bitTerms_length V
  simp only [bitTerms, zTerms, List.length_append, List.length_map, List.length_range] at hrounds
  by_cases hrange : i < V.zEnd - V.keyWords
  · rw [bitTerms, List.getElem?_append_left (by simpa [zTerms] using hrange)]
    simp [zTerms, hrange, hz i hrange]
  · obtain ⟨j, rfl⟩ := Nat.exists_eq_add_of_le (Nat.le_of_not_lt hrange)
    rw [bitTerms, List.getElem?_append_right (by simp [zTerms])]
    simpa [zTerms] using htail j (by omega)

/-- The terms have the period 62 of z (R139). -/
theorem getElem?_bitTerms_period (hi : i + V.keyWords < V.rounds) :
    (bitTerms V)[i]? = some (BitVec.ofBool (V.z.getLsbD (i % 62))) := by
  refine getElem?_bitTerms (f := fun i => V.z.getLsbD (i % 62)) (fun i hrange => ?_) (fun j hj => ?_) hi
  · obtain ⟨h62, h63⟩ := z_repeats V
    have hle := zRange_le V
    obtain hlt | rfl | rfl : i < 62 ∨ i = 62 ∨ i = 63 := by omega
    · rw [Nat.mod_eq_of_lt hlt]
    · exact h62
    · exact h63
  · obtain hnil | hrange := tail_eq_nil_or_zRange_eq V
    · simp [hnil] at hj
    · have hle := tail_length_le V
      have hplace : (64 + j) % 62 = 2 + j := by omega
      rw [hrange, hplace, getElem?_tail V j hj]

/-- The terms are those written out for each index (R136, R137). -/
theorem getElem?_bitTerms_bitTerm (hi : i + V.keyWords < V.rounds) :
    (bitTerms V)[i]? = some (BitVec.ofBool (bitTerm V (i + V.keyWords))) := by
  refine getElem?_bitTerms (f := fun i => bitTerm V (i + V.keyWords)) (fun i hrange => ?_) ?_ hi
  · have hlt : i + V.keyWords < V.zEnd := by omega
    cases V with
    | simon64_96 | simon64_128 => rfl
    | simon128_128 | simon128_192 | simon128_256 => exact (if_pos hlt).symm
  · cases V <;> decide

end Sys2Proof.Machine
end

section
/-! PROOF. The key schedule: its seed, its recurrence and its bit terms (R133 to R139). -/

namespace Sys2Proof.Machine

variable {V : Variant}

theorem expand_length_eq_rounds {n : Nat} {uk : List (BitVec n)} (huk : uk.length = V.keyWords) :
    (expand V uk).length = V.rounds := by
  rw [expand_eq_expandTail, List.length_reverse, expandTail_length, huk, keyWords_add_bitTerms_length]

/-- Settles O15: the expander puts every derived key in front of the reversed seed. -/
theorem scheduleSeedIsTheKeyReversed : Obligations.ScheduleSeedIsTheKeyReversed := by
  intro V uk huk
  refine ⟨expand_length_eq_rounds huk, fun i hi => ?_⟩
  obtain ⟨newer, hnewer⟩ := suffix_expandTail V.keyWords (bitTerms V) uk
  rw [← huk] at hi
  rw [expand_eq_expandTail, ← hnewer, List.reverse_append, List.getElem?_append_left (by rwa [List.length_reverse]),
    List.getElem?_reverse hi, huk]

/-- Settles O16: each derived key follows the recurrence, with the bit term written out for its index. -/
theorem derivedKeysFollowTheRecurrence : Obligations.DerivedKeysFollowTheRecurrence := by
  intro V uk huk k i hm hR
  obtain ⟨i, rfl⟩ := Nat.exists_eq_add_of_le' hm
  rw [Nat.add_sub_cancel]
  exact expand_getD_of_bitTerms huk (getElem?_bitTerms_bitTerm hR)

/-- What is left of an XOR of four words once three of them are taken off. -/
theorem xor_four_cancel {n : Nat} (c b k t : BitVec n) : c ^^^ b ^^^ k ^^^ t ^^^ c ^^^ k ^^^ t = b := by
  have hrest : c ^^^ b ^^^ k ^^^ t ^^^ c ^^^ k ^^^ t = b ^^^ (c ^^^ c) ^^^ (k ^^^ k) ^^^ (t ^^^ t) := by ac_rfl
  simp [hrest]

/-- tmp of the n-th derived key, its indices counted from n. -/
theorem recurrenceTmpAt_add {n : Nat} (m : Nat) (k : Nat → BitVec n) (i : Nat) :
    recurrenceTmpAt m k (i + m) =
      if m = 4 then ror (k (i + 3)) 3 ^^^ k (i + 1) ^^^ ror (k (i + 3)) 4 ^^^ ror (k (i + 1)) 1
      else ror (k (i + m - 1)) 3 ^^^ ror (k (i + m - 1)) 4 := by
  rw [recurrenceTmpAt]
  split
  · next hm => rw [hm]; rfl
  · rfl

/-- Settles O17: what the recurrence leaves is the bit term, which has the period 62. -/
theorem bitTermsHavePeriodSixtyTwo : Obligations.BitTermsHavePeriodSixtyTwo := by
  constructor
  · intro V uk huk k i hi
    have hkey := expand_getD_of_bitTerms huk (getElem?_bitTerms_period hi)
    rw [recurrenceTmpAt_add] at hkey
    exact (congrArg (· ^^^ _ ^^^ _ ^^^ _) hkey).trans (xor_four_cancel _ _ _ _)
  · exact fun V => ⟨(z_repeats V).1, (z_repeats V).2, getElem?_tail V⟩

end Sys2Proof.Machine
end

section
/-! SUPPORT. KEYSETUP's choice of a variant (R130), what its completion leaves (R140), and the RAM that holds a list of
round keys (R31). -/

namespace Sys2Proof.Machine

variable {s : State} {w : Width} {len : Nat} {V : Variant}

/-! ## The choice of a variant -/

theorem eq_of_selectVariant (h : selectVariant w len = some V) : w = V.width ∧ len = V.keyBytes := by
  unfold selectVariant at h
  split at h <;> cases h <;> exact ⟨rfl, rfl⟩

/-- A pair outside the table selects none (R130). -/
theorem selectVariant_eq_none (h32 : ¬ (w = .w32 ∧ (len = 12 ∨ len = 16)))
    (h64 : ¬ (w = .w64 ∧ (len = 16 ∨ len = 24 ∨ len = 32))) : selectVariant w len = none := by
  cases h : selectVariant w len with
  | none => rfl
  | some V =>
    obtain ⟨rfl, rfl⟩ := eq_of_selectVariant h
    cases V with
    | simon64_96 | simon64_128 => exact absurd (by decide) h32
    | simon128_128 | simon128_192 | simon128_256 => exact absurd (by decide) h64

/-! ## The completion -/

/-- KEYSETUP loads the variant it selects, or fails with KEYLEN where it selects none (R140). -/
theorem exec_keysetup_selects (w : Width) (len : Nat) (s : State) :
    ∃ t, exec (.keysetup w len) s = .next t ∧
      (∀ V, selectVariant w len = some V → t.err = 0 ∧ t.variant = some V) ∧
      (selectVariant w len = none → t.err = 2 ∧ t.variant = s.variant) := by
  cases h : selectVariant w len with
  | none => exact ⟨_, exec_keysetup_of_none h, nofun, fun _ => ⟨rfl, rfl⟩⟩
  | some V => exact ⟨_, exec_keysetup_of_some h, fun _ hV => ⟨rfl, hV⟩, nofun⟩

theorem State.keyed_of_variant (h : s.variant = some V) : s.keyed = true := by
  simp [State.keyed, h]

theorem State.bs_of_variant (h : s.variant = some V) : s.bs = decide (V.width = .w64) := by
  simp [State.bs, h]

theorem State.roundCount_of_variant (h : s.variant = some V) : s.roundCount = V.rounds := by
  simp [State.roundCount, h]

/-! ## The RAM -/

/-- An entry of the RAM is its round key, zero-extended, or 0 beyond the last one (R31). -/
theorem ramOf_getElem {n : Nat} (ks : List (BitVec n)) (i : Fin 72) :
    (ramOf ks)[i] = if i.val < ks.length then (ks.getD i.val 0).setWidth 64 else 0 := by
  have hentry : (ramOf ks)[i] = (ks.map (BitVec.setWidth 64)).getD i.val 0 := by simp [ramOf]
  rw [hentry]
  split
  · next hlt => simp [hlt]
  · next hge => simp [Nat.le_of_not_lt hge]

theorem roundKeys_length (V : Variant) (key : Vector Word 8) : (roundKeys V key).length = V.rounds :=
  expand_length_eq_rounds (userKey_length V key)

end Sys2Proof.Machine
end

section
/-! PROOF. KEYSETUP: the variant it selects, the schedule it loads, and what that depends on (R130, R140, R142). -/

namespace Sys2Proof.Machine

/-- Settles O19: `selectVariant` is the table, and no variant is selected outside it. -/
theorem keysetupSelectsTheVariant : Obligations.KeysetupSelectsTheVariant := by
  refine ⟨fun w len s => ?_, rfl⟩
  obtain ⟨t, hexec, hsome, hnone⟩ := exec_keysetup_selects w len s
  have hpair {w' : Width} {len' : Nat} {V : Variant} (hsel : selectVariant w' len' = some V) (h : w = w' ∧ len = len') :
      t.err = 0 ∧ t.variant = some V := by
    obtain ⟨rfl, rfl⟩ := h
    exact hsome V hsel
  exact ⟨t, hexec, hpair rfl, hpair rfl, hpair rfl, hpair rfl, hpair rfl,
    fun h32 h64 => hnone (selectVariant_eq_none h32 h64)⟩

/-- Settles O20: the state loaded is that of `exec_keysetup_of_some`, its RAM that of `ramOf_getElem`. -/
theorem keysetupLoadsTheSchedule : Obligations.KeysetupLoadsTheSchedule := by
  intro w len V s hV
  have hvariant : (s.loadSchedule V (scheduleRam V s.key)).completeOk.variant = some V := rfl
  refine ⟨_, exec_keysetup_of_some hV, ⟨rfl, rfl, rfl, rfl, rfl, rfl, rfl, rfl⟩, hvariant,
    State.keyed_of_variant hvariant, ?_, State.roundCount_of_variant hvariant, fun i => ?_, rfl, rfl, rfl⟩
  · rw [State.bs_of_variant hvariant, (eq_of_selectVariant hV).1]
  · rw [← roundKeys_length V s.key]
    exact ramOf_getElem (roundKeys V s.key) i

/-- A piece of a list that ends before place `n` is seen in its first `n` elements. -/
theorem take_drop_eq_of_take_eq {α : Type} {l l' : List α} {n a b : Nat} (h : l.take n = l'.take n) (hle : a + b ≤ n) :
    (l.drop a).take b = (l'.drop a).take b := by
  have hpiece (xs : List α) : ((xs.take n).drop a).take b = (xs.drop a).take b := by
    rw [List.drop_take, List.take_take, Nat.min_eq_left (by omega)]
  rw [← hpiece l, h, hpiece l']

/-- The user-key words are those of the first L key bytes alone (R58, R132). -/
theorem userKey_congr {V : Variant} {key key' : Vector Word 8}
    (h : (registerBytes key.toList).take V.keyBytes = (registerBytes key'.toList).take V.keyBytes) :
    userKey V key = userKey V key' := by
  obtain ⟨hlength, hbytes, hword, -⟩ := userKeyWordsAreBigEndian V key
  obtain ⟨hlength', -, hword', -⟩ := userKeyWordsAreBigEndian V key'
  refine List.ext_getElem (hlength.trans hlength'.symm) fun i hi hi' => BitVec.eq_of_toNat_eq ?_
  have hiV : i < V.keyWords := hlength ▸ hi
  have hinside : V.width.bits / 8 * i + V.width.bits / 8 ≤ V.keyBytes := by
    rw [hbytes, ← Nat.mul_succ, Nat.mul_comm V.keyWords]
    exact Nat.mul_le_mul_left _ hiV
  rw [← List.getD_eq_getElem _ 0 hi, ← List.getD_eq_getElem _ 0 hi', hword i hiV, hword' i hiV,
    take_drop_eq_of_take_eq h hinside]

/-- Settles O22: the key buffer enters the schedule through the user-key words. -/
theorem scheduleDependsOnTheKeyBytesAlone : Obligations.ScheduleDependsOnTheKeyBytesAlone := by
  intro w len V s s' hV hbytes
  obtain ⟨-, rfl⟩ := eq_of_selectVariant hV
  refine ⟨_, _, exec_keysetup_of_some hV, exec_keysetup_of_some hV, ?_, ?_, roundKeys_length V s.key⟩
  · simp only [State.completeOk_rk, State.loadSchedule_rk, scheduleRam, roundKeys, userKey_congr hbytes]
  · simp only [State.completeOk_variant, State.loadSchedule_variant]

end Sys2Proof.Machine
end

section
/-! SUPPORT. The single rounds (R161, R163): each inverts the other, and the engine's paired passes are two of them. -/

namespace Sys2Proof.Machine

variable {n : Nat}

/-! ## One round -/

theorem roundOnce_roundOnce (b : Block n) (p q : BitVec n) : roundOnce (roundOnce b p) q = pairStep b.1 b.2 p q := rfl

theorem swap_oddTail (b : Block n) (p : BitVec n) : Prod.swap (b.1, b.2 ^^^ mix b.1 ^^^ p) = roundOnce b p := rfl

/-- A word comes back when the same two words are XORed in twice. -/
theorem xor_pair_cancel (y a q : BitVec n) : y ^^^ a ^^^ q ^^^ a ^^^ q = y := by
  have hpairs : y ^^^ a ^^^ q ^^^ a ^^^ q = y ^^^ (a ^^^ a) ^^^ (q ^^^ q) := by ac_rfl
  simp [hpairs]

theorem invRound_roundOnce (b : Block n) (q : BitVec n) : invRound (roundOnce b q) q = b :=
  Prod.ext rfl (xor_pair_cancel b.2 (mix b.1) q)

theorem roundOnce_invRound (b : Block n) (q : BitVec n) : roundOnce (invRound b q) q = b :=
  Prod.ext (xor_pair_cancel b.1 (mix b.2) q) rfl

/-! ## The engine's passes -/

theorem encryptPass_eq_roundOnce (k : Nat → BitVec n) (b : Block n) (j : Nat) :
    encryptPass k b j = roundOnce (roundOnce b (k (2 * j))) (k (2 * j + 1)) := rfl

theorem decryptPass_eq_invRound (k : Nat → BitVec n) (b : Block n) (j : Nat) :
    decryptPass k b j = invRound (invRound b (k (2 * j + 1))) (k (2 * j)) := rfl

theorem foldl_encryptPass (m : Nat) (k : Nat → BitVec n) (b : Block n) :
    (List.range m).foldl (encryptPass k) b = (List.range (2 * m)).foldl (fun c i => roundOnce c (k i)) b := by
  induction m with
  | zero => rfl
  | succ m ih => simp [Nat.mul_succ, List.range_succ, ih, encryptPass_eq_roundOnce]

theorem foldl_decryptPass (m : Nat) (k : Nat → BitVec n) (b : Block n) :
    (List.range m).reverse.foldl (decryptPass k) b =
      (List.range (2 * m)).reverse.foldl (fun c i => invRound c (k i)) b := by
  induction m generalizing b with
  | zero => rfl
  | succ m ih => simp [Nat.mul_succ, List.range_succ, -List.foldl_reverse, ih, decryptPass_eq_invRound]

theorem encryptBlock_even (m : Nat) (k : Nat → BitVec n) (b : Block n) :
    encryptBlock (2 * m) k b = (List.range m).foldl (encryptPass k) b := by
  simp [encryptBlock]

theorem encryptBlock_odd (m : Nat) (k : Nat → BitVec n) (b : Block n) :
    encryptBlock (2 * m + 1) k b = roundOnce ((List.range m).foldl (encryptPass k) b) (k (2 * m)) := by
  have hpasses : (2 * m + 1) / 2 = m := by omega
  simp [encryptBlock, roundOnce, hpasses]

theorem decryptBlock_even (m : Nat) (k : Nat → BitVec n) (b : Block n) :
    decryptBlock (2 * m) k b = (List.range m).reverse.foldl (decryptPass k) b := by
  simp [decryptBlock]

/-- The odd tail is undone by one inverse round; the engine XORs the key in before f (R162). -/
theorem decryptBlock_odd (m : Nat) (k : Nat → BitVec n) (b : Block n) :
    decryptBlock (2 * m + 1) k b = (List.range m).reverse.foldl (decryptPass k) (invRound b (k (2 * m))) := by
  have hpasses : (2 * m + 1) / 2 = m := by omega
  have htail : b.1 ^^^ k (2 * m) ^^^ mix b.2 = b.1 ^^^ mix b.2 ^^^ k (2 * m) := by ac_rfl
  simp [decryptBlock, invRound, hpasses, htail]

/-! ## The engine is the fold of single rounds -/

theorem encryptBlock_eq_foldl (rounds : Nat) (k : Nat → BitVec n) (b : Block n) :
    encryptBlock rounds k b = (List.range rounds).foldl (fun c i => roundOnce c (k i)) b := by
  obtain ⟨m, rfl | rfl⟩ := Nat.even_or_odd' rounds
  · rw [encryptBlock_even, foldl_encryptPass]
  · rw [encryptBlock_odd, foldl_encryptPass, List.range_succ, List.foldl_append]
    rfl

theorem decryptBlock_eq_foldl (rounds : Nat) (k : Nat → BitVec n) (b : Block n) :
    decryptBlock rounds k b = (List.range rounds).reverse.foldl (fun c i => invRound c (k i)) b := by
  obtain ⟨m, rfl | rfl⟩ := Nat.even_or_odd' rounds
  · rw [decryptBlock_even, foldl_decryptPass]
  · rw [decryptBlock_odd, foldl_decryptPass, List.range_succ, List.reverse_concat, List.foldl_cons]

/-! ## Inversion -/

/-- Steps taken in order are undone by their inverses in the reverse order. -/
theorem foldl_reverse_foldl_cancel {α β : Type} {f g : β → α → β} (h : ∀ b a, g (f b a) a = b) (l : List α) (b : β) :
    l.reverse.foldl g (l.foldl f b) = b := by
  induction l generalizing b with
  | nil => rfl
  | cons a l ih => rw [List.foldl_cons, List.reverse_cons, List.foldl_append, ih]; exact h b a

theorem decryptBlock_encryptBlock (rounds : Nat) (k : Nat → BitVec n) (b : Block n) :
    decryptBlock rounds k (encryptBlock rounds k b) = b := by
  rw [decryptBlock_eq_foldl, encryptBlock_eq_foldl]
  exact foldl_reverse_foldl_cancel (fun c i => invRound_roundOnce c (k i)) _ b

theorem encryptBlock_decryptBlock (rounds : Nat) (k : Nat → BitVec n) (b : Block n) :
    encryptBlock rounds k (decryptBlock rounds k b) = b := by
  have hcancel := foldl_reverse_foldl_cancel (f := fun c i => invRound c (k i)) (g := fun c i => roundOnce c (k i))
    (fun c i => roundOnce_invRound c (k i)) (List.range rounds).reverse b
  rwa [List.reverse_reverse, ← decryptBlock_eq_foldl, ← encryptBlock_eq_foldl] at hcancel

end Sys2Proof.Machine
end

section
/-! PROOF. The engine on blocks: encryption is the fold of rounds, and decryption inverts it (R161, R163). -/

namespace Sys2Proof.Machine

/-- Settles O11: the passes are folded two rounds at a time; the odd tail is one round more. -/
theorem encryptionIsTheFoldOfRounds : Obligations.EncryptionIsTheFoldOfRounds := fun _ k b =>
  ⟨fun rounds => encryptBlock_eq_foldl rounds k b, roundOnce_roundOnce b, swap_oddTail b⟩

/-- Settles O12: it holds for every number of rounds and every key sequence, so for each variant's schedule. -/
theorem decryptionInvertsEncryption : Obligations.DecryptionInvertsEncryption := fun V _ P =>
  ⟨decryptBlock_encryptBlock V.rounds _ P, encryptBlock_decryptBlock V.rounds _ P, decryptBlock_eq_foldl V.rounds _ P,
    fun q => ⟨invRound_roundOnce P q, roundOnce_invRound P q⟩⟩

end Sys2Proof.Machine
end

section
/-! PROOF. ENCRYPT and DECRYPT: what a block command completes with under a loaded variant, and the round trip
(R60, R163 to R165). -/

namespace Sys2Proof.Machine

variable {s : State} {V : Variant}

/-! ## Both block commands at once -/

/-- A block result copied from DOUT to DIN is read as the same block (R59, R60). -/
theorem blockOperand_blockResult (w : Width) (b : Block w.bits) : blockOperand w (blockResult w b) = b := by
  cases w with
  | w32 => rfl
  | w64 => exact Prod.ext BitVec.extractLsb'_append_extractLsb' BitVec.extractLsb'_append_extractLsb'

theorem blockResult_zeroFill {w : Width} (b : Block w.bits) (h : w = .w32) :
    (blockResult w b)[2] = 0 ∧ (blockResult w b)[3] = 0 := by
  subst h
  exact ⟨rfl, rfl⟩

theorem blockCommand_committed {f} (h : s.variant = some V) : Committed 0 s (blockCommand f s) := by
  rw [blockCommand_of_some h]
  exact ⟨rfl, rfl, rfl, rfl, rfl, rfl, rfl, rfl⟩

theorem blockCommand_sameInputs {f} (h : s.variant = some V) : SameInputs s (blockCommand f s) := by
  rw [blockCommand_of_some h]
  exact ⟨rfl, rfl, rfl, rfl⟩

theorem blockCommand_dout {f} (h : s.variant = some V) :
    (blockCommand f s).dout = blockResult V.width
      (f V.width.bits V.rounds (ramKey s.rk) (blockOperand V.width s.din)) := by
  rw [blockCommand_of_some h, State.completeOk_dout, State.writeDout_dout]

/-- The block in DOUT is the transform of the block in DIN under the RAM's keys (R164, R165). -/
theorem blockOperand_blockCommand {f} (h : s.variant = some V) :
    blockOperand V.width (blockCommand f s).dout =
      f V.width.bits V.rounds (ramKey s.rk) (blockOperand V.width s.din) := by
  rw [blockCommand_dout h, blockOperand_blockResult]

/-- The DOUT registers beyond the block are 0 (R60). -/
theorem blockCommand_zeroFill {f} (h : s.variant = some V) (hw : V.width = .w32) :
    (blockCommand f s).dout[2] = 0 ∧ (blockCommand f s).dout[3] = 0 := by
  simp only [blockCommand_dout h]
  exact blockResult_zeroFill _ hw

/-- The second command sees the variant and the RAM of the first, so inverse transforms restore the block (R163). -/
theorem blockCommand_roundTrip {f g : (n : Nat) → (rounds : Nat) → (k : Nat → BitVec n) → Block n → Block n}
    (hinv : ∀ n rounds k b, g n rounds k (f n rounds k b) = b) (h : s.variant = some V) :
    (blockCommand g { blockCommand f s with din := (blockCommand f s).dout }).err = 0 ∧
      blockOperand V.width (blockCommand g { blockCommand f s with din := (blockCommand f s).dout }).dout =
        blockOperand V.width s.din := by
  obtain ⟨hvariant, hrk, -, -⟩ := blockCommand_sameInputs (f := f) h
  have hloaded : { blockCommand f s with din := (blockCommand f s).dout }.variant = some V := hvariant.trans h
  refine ⟨(blockCommand_committed hloaded).err, ?_⟩
  rw [blockOperand_blockCommand hloaded, hrk, blockOperand_blockCommand h, hinv]

/-! ## The commands -/

/-- Settles O23: ENCRYPT is the block command by the engine, which is the fold of rounds. -/
theorem encryptCompletes : Obligations.EncryptCompletes := fun _ _ h =>
  ⟨_, exec_encrypt, blockCommand_committed h, blockCommand_sameInputs h,
    (blockOperand_blockCommand h).trans (encryptBlock_eq_foldl _ _ _), blockCommand_zeroFill h⟩

/-- Settles O24: DECRYPT is the block command by the inverse engine, which is the fold of inverse rounds. -/
theorem decryptCompletes : Obligations.DecryptCompletes := fun _ _ h =>
  ⟨_, exec_decrypt, blockCommand_committed h, blockCommand_sameInputs h,
    (blockOperand_blockCommand h).trans (decryptBlock_eq_foldl _ _ _), blockCommand_zeroFill h⟩

/-- Settles O26: each engine inverts the other under any keys. -/
theorem encryptThenDecryptRestoresTheBlock : Obligations.EncryptThenDecryptRestoresTheBlock := fun _ _ h =>
  ⟨⟨_, _, exec_encrypt, exec_decrypt, blockCommand_roundTrip (fun _ => decryptBlock_encryptBlock) h⟩,
    ⟨_, _, exec_decrypt, exec_encrypt, blockCommand_roundTrip (fun _ => encryptBlock_decryptBlock) h⟩⟩

end Sys2Proof.Machine
end

section
/-! SUPPORT. The core's turn (R191), and which commands end with an error, each with its own code (R192, R211). -/

namespace Sys2Proof.Machine

variable {s t : State} {v : Word} {i : Instr} {e : CmdError}

/-! ## The core moves next -/

/-- When the core moves next the step is its turn, whether an event told it to or none is left (R249; log 2). -/
theorem step_of_coreNext (h : s.coreNext) : step s = coreTurn (s.setEvents s.events.tail) := by
  obtain hnil | ⟨es, hcons⟩ := h
  · have hkept : s.setEvents s.events.tail = s := by rw [hnil, List.tail_nil, ← hnil, s.setEvents_self]
    rw [step_of_nil hnil, hkept]
  · rw [step_of_cons hcons, takeTurn, hcons, List.tail_cons]

theorem step_completes_of_coreNext (hpending : s.pending = some v) (h : s.coreNext) :
    step s = complete v (s.setEvents s.events.tail) :=
  (step_of_coreNext h).trans (coreTurn_of_pending hpending)

theorem decode_of_decodeTableWord {nbits w : Nat} (h : decodeTableWord nbits w = some i) :
    decode (tableWord nbits w) = .ok i := by
  unfold decodeTableWord at h
  split at h
  · next hdec => exact hdec.trans (congrArg Except.ok (Option.some.inj h))
  · cases h

/-! ## Errors -/

/-- Both block commands fail without a schedule (R214). -/
theorem exec_blockCommand_of_none (hi : i = .encrypt ∨ i = .decrypt) (h : s.variant = none) :
    exec i s = .next (s.completeError .nokey) := by
  obtain rfl | rfl := hi
  · rw [exec_encrypt, blockCommand_of_none h]
  · rw [exec_decrypt, blockCommand_of_none h]

/-- What makes the completion of the word `v` end with an error (R212 to R214). -/
inductive Raises (v : Word) (s : State) : CmdError → Prop where
  | illegal {r : Illegal} (hdec : decode v = .error r) : Raises v s .illegal
  | keylen {w : Width} {len : Nat} (hdec : decode v = .ok (.keysetup w len)) (h : selectVariant w len = none) :
      Raises v s .keylen
  | nokey {i : Instr} (hdec : decode v = .ok i) (hi : i = .encrypt ∨ i = .decrypt) (h : s.variant = none) :
      Raises v s .nokey

/-- A cause of an error makes the completion end with it, and nothing but STATUS changes (R192). -/
theorem Raises.complete_eq (h : Raises v s e) : complete v s = .next (s.completeError e) := by
  cases h with
  | illegal hdec => exact complete_of_error hdec
  | keylen hdec h => exact (complete_of_ok hdec).trans (exec_keysetup_of_none h)
  | nokey hdec hi h => exact (complete_of_ok hdec).trans (exec_blockCommand_of_none hi h)

/-- Each error has its one kind of cause, told by the code (R211). -/
theorem exists_raises_iff {code : BitVec 4} : (∃ e, Raises v s e ∧ e.code = code) ↔
    (code = 1 ∧ ∃ r, decode v = .error r) ∨
    (code = 2 ∧ ∃ w len, decode v = .ok (.keysetup w len) ∧ selectVariant w len = none) ∨
    (code = 3 ∧ (decode v = .ok .encrypt ∨ decode v = .ok .decrypt) ∧ s.variant = none) := by
  constructor
  · rintro ⟨e, ⟨hdec⟩ | ⟨hdec, h⟩ | ⟨hdec, rfl | rfl, h⟩, rfl⟩
    · exact .inl ⟨rfl, _, hdec⟩
    · exact .inr (.inl ⟨rfl, _, _, hdec, h⟩)
    · exact .inr (.inr ⟨rfl, .inl hdec, h⟩)
    · exact .inr (.inr ⟨rfl, .inr hdec, h⟩)
  · rintro (⟨rfl, r, hdec⟩ | ⟨rfl, w, len, hdec, h⟩ | ⟨rfl, hdec | hdec, h⟩)
    · exact ⟨_, .illegal hdec, rfl⟩
    · exact ⟨_, .keylen hdec h, rfl⟩
    · exact ⟨_, .nokey hdec (.inl rfl) h, rfl⟩
    · exact ⟨_, .nokey hdec (.inr rfl) h, rfl⟩

/-- A command that lacks neither a variant to select nor a schedule to use succeeds (R191). -/
theorem exec_succeeds_or_lacks (i : Instr) (s : State) :
    (∃ t, exec i s = .next t ∧ Committed 0 s t) ∨
    (∃ w len, i = .keysetup w len ∧ selectVariant w len = none) ∨
    ((i = .encrypt ∨ i = .decrypt) ∧ s.variant = none) := by
  cases i with
  | nop => exact .inl ⟨_, exec_nop, committed_completeOk s⟩
  | zeroize => exact .inl ⟨_, exec_zeroize, ⟨rfl, rfl, rfl, rfl, rfl, rfl, rfl, rfl⟩⟩
  | keysetup w len =>
    cases hV : selectVariant w len with
    | none => exact .inr (.inl ⟨w, len, rfl, hV⟩)
    | some V => exact .inl ⟨_, exec_keysetup_of_some hV, ⟨rfl, rfl, rfl, rfl, rfl, rfl, rfl, rfl⟩⟩
  | encrypt =>
    cases hV : s.variant with
    | none => exact .inr (.inr ⟨.inl rfl, rfl⟩)
    | some V => exact .inl ⟨_, exec_encrypt, blockCommand_committed hV⟩
  | decrypt =>
    cases hV : s.variant with
    | none => exact .inr (.inr ⟨.inr rfl, rfl⟩)
    | some V => exact .inl ⟨_, exec_decrypt, blockCommand_committed hV⟩
  | roli w k => exact .inl ⟨_, exec_roli, wordCommand_committed w _ s⟩
  | rori w k => exact .inl ⟨_, exec_rori, wordCommand_committed w _ s⟩
  | rolv w => exact .inl ⟨_, exec_rolv, wordCommand_committed w _ s⟩
  | rorv w => exact .inl ⟨_, exec_rorv, wordCommand_committed w _ s⟩
  | fmix w => exact .inl ⟨_, exec_fmix, wordCommand_committed w _ s⟩

/-- A completion without a cause of an error is that of a command, and succeeds (R191). -/
theorem complete_succeeds_or_raises (v : Word) (s : State) :
    (∃ i t, decode v = .ok i ∧ complete v s = .next t ∧ Committed 0 s t) ∨ ∃ e, Raises v s e := by
  cases hdec : decode v with
  | error r => exact .inr ⟨_, .illegal hdec⟩
  | ok i =>
    obtain ⟨t, hexec, hcommit⟩ | ⟨w, len, rfl, hV⟩ | ⟨hi, hV⟩ := exec_succeeds_or_lacks i s
    · exact .inl ⟨i, t, rfl, (complete_of_ok hdec).trans hexec, hcommit⟩
    · exact .inr ⟨_, .keylen hdec hV⟩
    · exact .inr ⟨_, .nokey hdec hi hV⟩

end Sys2Proof.Machine
end

section
/-! PROOF. The life of a command: acceptance, the core's turn, the commit with its code, and the end of every pending
command (R190 to R194, R211, R218, R241, R249). -/

namespace Sys2Proof.Machine

variable {s : State} {v : Word}

/-- Settles O36: the completion succeeds with code 0, or fails with the code of its cause. -/
theorem everyCompletionCommits : Obligations.EveryCompletionCommits := by
  intro s v hpending hcore
  rw [step_completes_of_coreNext hpending hcore]
  obtain ⟨i, t, hdec, hcomplete, hcommit⟩ | ⟨e, hraises⟩ := complete_succeeds_or_raises v (s.setEvents s.events.tail)
  · exact ⟨t, hcomplete, .inr ⟨i, hdec, .inl hcommit⟩⟩
  · refine ⟨_, hraises.complete_eq, ?_⟩
    have hcommit := committed_completeError e (s.setEvents s.events.tail)
    cases hraises with
    | illegal hdec => exact .inl ⟨⟨_, hdec⟩, hcommit⟩
    | keylen hdec _ => exact .inr ⟨_, hdec, .inr (.inl ⟨⟨_, _, rfl⟩, hcommit⟩)⟩
    | nokey hdec hi _ => exact .inr ⟨_, hdec, .inr (.inr ⟨hi, hcommit⟩)⟩

/-- Settles O37: each cause raises its error, and a completion that raises none leaves code 0. -/
theorem errorCommitChangesStatusAlone : Obligations.ErrorCommitChangesStatusAlone := by
  intro s v raises
  refine ⟨fun code hraises => ?_, fun t hcomplete herr => ?_⟩
  · obtain ⟨e, he, rfl⟩ := exists_raises_iff.mpr hraises
    exact he.complete_eq
  · obtain ⟨-, u, -, hu, hcommit⟩ | ⟨e, he⟩ := complete_succeeds_or_raises v s
    · obtain rfl : t = u := Host.Outcome.next.inj (hcomplete.symm.trans hu)
      exact absurd hcommit.err herr
    · obtain rfl : t = s.completeError e := Host.Outcome.next.inj (hcomplete.symm.trans he.complete_eq)
      exact exists_raises_iff.mp ⟨e, he, rfl⟩

/-- A step with a word in the slot empties it, by a completion or a reset, or is a host access and leaves it
(R191, R241). -/
theorem step_empties_or_keeps_the_slot (hpending : s.pending = some v) (hlawful : ∀ e ∈ s.events, e.lawful = true) :
    ∃ t, step s = .next t ∧
      (t.pending = none ∨ ∃ a, s.events = .bus a :: t.events ∧ t.pending = some v) := by
  have completes (hcore : s.coreNext) : ∃ t, step s = .next t ∧ t.pending = none := by
    obtain ⟨_, t, hcomplete, hcommit⟩ := complete_commits v (s.setEvents s.events.tail)
    exact ⟨t, (step_completes_of_coreNext hpending hcore).trans hcomplete, hcommit.pending⟩
  cases hevents : s.events with
  | nil => exact (completes (.inl hevents)).imp fun _ => And.imp_right .inl
  | cons e es =>
    cases e with
    | core => exact (completes (.inr ⟨es, hevents⟩)).imp fun _ => And.imp_right .inl
    | bus a =>
      have hkept := State.busAccess_sameOperands_of_busy (State.busy_iff.mpr ⟨v, hpending⟩) a
      exact ⟨_, step_of_bus hevents, .inr ⟨a, rfl, hkept.pending.trans hpending⟩⟩
    | rst presented =>
      cases presented with
      | none => exact ⟨_, step_of_cons hevents, .inl rfl⟩
      | some a => exact absurd (hlawful (.rst (some a)) (by simp [hevents])) Bool.false_ne_true

/-- Settles O42: by induction on the events that remain, since a host access takes one of them. -/
theorem pendingCommandComesToAnEnd : Obligations.PendingCommandComesToAnEnd := by
  intro s v hpending hlawful
  induction hlen : s.events.length generalizing s with
  | zero =>
    obtain ⟨t, hstep, hempty | ⟨a, hevents, -⟩⟩ := step_empties_or_keeps_the_slot hpending hlawful
    · exact ⟨1, Nat.le_refl 1, t, run_succ_of_next hstep, hempty⟩
    · simp [hevents] at hlen
  | succ k ih =>
    obtain ⟨t, hstep, hempty | ⟨a, hevents, hkept⟩⟩ := step_empties_or_keeps_the_slot hpending hlawful
    · exact ⟨1, by omega, t, run_succ_of_next hstep, hempty⟩
    · have hrest : ∀ e ∈ t.events, e.lawful = true := fun e he => hlawful e (by simp [hevents, he])
      obtain ⟨n, hn, u, hrun, hempty⟩ := ih t hkept hrest (by simpa [hevents] using hlen)
      exact ⟨n + 1, Nat.succ_le_succ hn, u, (run_succ_of_next hstep).trans hrun, hempty⟩

/-- Settles O31: NOP commits and does nothing else. -/
theorem nopCompletes : Obligations.NopCompletes := fun s =>
  ⟨_, exec_nop, committed_completeOk s, ⟨rfl, rfl, rfl, rfl⟩, rfl⟩

/-- Settles O32: the state is that of the wipe, and a block command finds no variant in it. -/
theorem zeroizeCompletes : Obligations.ZeroizeCompletes := by
  intro s
  refine ⟨_, exec_zeroize, ⟨rfl, rfl, rfl, rfl, rfl, rfl, rfl, rfl⟩, rfl, rfl, rfl, rfl, fun i => ?_, fun j => ?_,
    fun j => ⟨?_, ?_⟩, fun i hi => ?nokey⟩
  case nokey => exact ⟨_, exec_blockCommand_of_none (by simpa using hi) rfl, rfl⟩
  all_goals simp

/-- Settles O33: the step is the access, and a write to CMD is acceptance, by the state of the slot. -/
theorem cmdWriteIsAcceptedOrDropped : Obligations.CmdWriteIsAcceptedOrDropped := by
  intro s v es hevents
  have haccept : s.afterAccess (writeAccess 0x0C v) = s.accept v := afterAccess_writeAccess_reg (by decide) regAt_cmd
  refine ⟨_, hostStepPerformsOneAccess s _ es hevents, fun hbusy => ?_, fun hidle => ?_⟩
  · rw [haccept, State.accept_of_busy v (State.busy_iff_ne_none.mpr hbusy)]
    rfl
  · rw [haccept, State.accept_of_idle v (State.not_busy_iff.mpr hidle)]
    rfl

/-- Settles O35: the step is the core's turn; after a word is placed the core moves next, so the first clause gives the
third. -/
theorem stepRunsTheDecodedCommand : Obligations.StepRunsTheDecodedCommand := by
  have runs (s : State) (v : Word) (i : Instr) (hpending : s.pending = some v) (hdec : decode v = .ok i)
      (hcore : s.coreNext) : step s = exec i (s.setEvents s.events.tail) :=
    (step_completes_of_coreNext hpending hcore).trans (complete_of_ok hdec)
  refine ⟨runs, fun s hidle hcore => ?_, fun s nbits w i hword => ?_⟩
  · exact (step_of_coreNext hcore).trans (coreTurn_of_idle hidle)
  · exact runs (s.withFetchWord nbits w) _ i rfl (decode_of_decodeTableWord hword) (.inr ⟨s.events, rfl⟩)

end Sys2Proof.Machine
end

section
/-! SUPPORT. Which words the decoder refuses, by their fields (R84, R85, R212), which writes a busy core drops (R56, R215),
and the frame of a failed completion (R192). -/

namespace Sys2Proof

variable {v : Word} {i : Instr}

/-! ## The words the decoder refuses -/

theorem opField_toNat (v : Word) : (opField v).toNat = v.toNat % 16 := by
  rw [opField, BitVec.extractLsb'_toNat, Nat.shiftRight_zero]

theorem wField_ne_zero_iff : wField v ≠ 0 ↔ v.getLsbD 8 = true := by
  rw [← eq_w64_iff_of_wField (field_widthOfBit (wField v)).symm]
  simp [widthOfBit]

theorem decodeBare_refuses_iff : (∃ r, decodeBare v i = .error r) ↔ wField v ≠ 0 ∨ imm6Field v ≠ 0 := by
  unfold decodeBare
  split <;> simp_all [imp_iff_not_or]

theorem decodeWidth_refuses_iff {f : Width → Instr} : (∃ r, decodeWidth v f = .error r) ↔ imm6Field v ≠ 0 := by
  unfold decodeWidth
  split <;> simp_all

theorem not_decodeImm_refuses {f : Width → Nat → Instr} : ¬ ∃ r, decodeImm v f = .error r := nofun

theorem not_reservedClear_iff : ¬ ReservedClear v ↔ rsv0Field v ≠ 0 ∨ rsv1Field v ≠ 0 ∨ rsv2Field v ≠ 0 := by
  have hclear : ReservedClear v ↔ rsv0Field v = 0 ∧ rsv1Field v = 0 ∧ rsv2Field v = 0 :=
    ⟨fun ⟨h0, h1, h2⟩ => ⟨h0, h1, h2⟩, fun ⟨h0, h1, h2⟩ => ⟨h0, h1, h2⟩⟩
  rw [hclear, not_and_or, not_and_or]

theorem decode_refuses_of_not_reservedClear (h : ¬ ReservedClear v) : ∃ r, decode v = .error r := by
  cases hdec : decode v with
  | error r => exact ⟨r, rfl⟩
  | ok i =>
    obtain ⟨-, hfields⟩ := hasFieldsOf_of_decode hdec
    exact absurd hfields.toReservedClear h

/-- With the reserved bits clear a word is refused for a reserved opcode, or for a field its command does not use. -/
theorem decode_refuses_iff_of_reservedClear (h : ReservedClear v) : (∃ r, decode v = .error r) ↔
    10 ≤ (opField v).toNat ∨
    (wField v ≠ 0 ∧ (opField v).toNat ∈ [0x0, 0x2, 0x3, 0x9]) ∨
    (imm6Field v ≠ 0 ∧ (opField v).toNat ∈ [0x0, 0x2, 0x3, 0x6, 0x7, 0x8, 0x9]) := by
  obtain ⟨hrsv0, hrsv1, hrsv2⟩ := h
  rw [decode, if_neg (by simp [hrsv0, hrsv1, hrsv2])]
  split
  case h_1 hop | h_3 hop | h_4 hop | h_10 hop => simp [decodeBare_refuses_iff, hop]
  case h_2 hop | h_5 hop | h_6 hop => simp [not_decodeImm_refuses, hop]
  case h_7 hop | h_8 hop | h_9 hop => simp [decodeWidth_refuses_iff, hop]
  case h_11 =>
    have hreserved : 10 ≤ (opField v).toNat := by
      simp only [imp_false] at *
      omega
    exact iff_of_true ⟨_, rfl⟩ (.inl hreserved)

namespace Machine

variable {s : State} {r : Reg} {off : BitVec 8}

/-! ## Writes a busy core drops -/

/-- The registers a busy core does not let the host write (R56, R215). -/
def Reg.droppedWhileBusy : Reg → Bool
  | .cmd | .rotamt | .key _ | .din _ => true
  | .id | .cfg | .status | .rounds | .cap | .dout _ | .reserved => false

theorem State.writeReg_of_busy (hbusy : s.busy = true) (h : r.droppedWhileBusy = true) : s.writeReg v r = s.dropWrite := by
  cases r with
  | cmd => exact State.accept_of_busy v hbusy
  | rotamt | key _ | din _ => exact State.unlessBusy_of_busy _ hbusy
  | id | cfg | status | rounds | cap | dout _ | reserved => exact absurd h Bool.false_ne_true

theorem regAt_droppedWhileBusy (h4 : off.toNat % 4 = 0)
    (h : off = 0x0C ∨ off = 0x10 ∨ (0x20 ≤ off.toNat ∧ off.toNat < 0x50)) : (regAt off).droppedWhileBusy = true := by
  revert off; decide

/-! ## Failed completions -/

/-- A failed completion leaves everything but STATUS (R192). -/
theorem completeError_changes_status_alone (e : CmdError) (s : State) :
    Committed e.code s (s.completeError e) ∧ SameInputs s (s.completeError e) ∧ (s.completeError e).dout = s.dout :=
  ⟨committed_completeError e s, ⟨rfl, rfl, rfl, rfl⟩, rfl⟩

end Machine

end Sys2Proof
end

section
/-! PROOF. Illegal words, failed commands, the priority of the conditions, and the interrupt (R212 to R220). -/

namespace Sys2Proof.Machine

/-- Settles O4: a reserved bit alone refuses the word; without one the opcode and the unused fields decide. -/
theorem illegalWordsCompleteWithIllegal : Obligations.IllegalWordsCompleteWithIllegal := by
  intro v
  refine ⟨?_, fun s ⟨r, hdec⟩ => ⟨_, complete_of_error hdec, completeError_changes_status_alone .illegal s⟩⟩
  change _ ↔ _ ∨ rsv0Field v ≠ 0 ∨ rsv1Field v ≠ 0 ∨ rsv2Field v ≠ 0 ∨ _ ∨ (imm6Field v ≠ 0 ∧ _)
  rw [← opField_toNat, ← wField_ne_zero_iff]
  by_cases hclear : ReservedClear v
  · rw [decode_refuses_iff_of_reservedClear hclear]
    simp only [hclear.rsv0, hclear.rsv1, hclear.rsv2, ne_eq, not_true_eq_false, false_or]
  · have hset := not_reservedClear_iff.mp hclear
    exact iff_of_true (decode_refuses_of_not_reservedClear hclear) (.inr (hset.imp_right (Or.imp_right .inl)))

/-- Settles O21: such a pair selects no variant. -/
theorem failedKeysetupKeepsTheSchedule : Obligations.FailedKeysetupKeepsTheSchedule := by
  intro w len s h32 h64
  have hnone : selectVariant w len = none :=
    selectVariant_eq_none (fun ⟨hw, hlen⟩ => not_or.mpr (h32 hw) hlen)
      (fun ⟨hw, hlen⟩ => by obtain ⟨hne16, hne24, hne32⟩ := h64 hw; omega)
  exact ⟨_, exec_keysetup_of_none hnone, completeError_changes_status_alone .keylen s⟩

/-- Settles O25: both commands fail with NOKEY. -/
theorem blockCommandsWithoutKeyAnswerNokey : Obligations.BlockCommandsWithoutKeyAnswerNokey :=
  fun s hnone _ hi => ⟨_, exec_blockCommand_of_none (by simpa using hi) hnone, completeError_changes_status_alone .nokey s⟩

/-- The code a command ends with, by what it lacks; no command lacks both (R213, R214, R217). -/
theorem exec_err (i : Instr) (s : State) : ∃ t, exec i s = .next t ∧
    ((∃ w len, i = .keysetup w len ∧ selectVariant w len = none) → t.err = 2) ∧
    ((i = .encrypt ∨ i = .decrypt) → s.variant = none → t.err = 3) ∧
    (¬ (∃ w len, i = .keysetup w len ∧ selectVariant w len = none) →
      ¬ ((i = .encrypt ∨ i = .decrypt) ∧ s.variant = none) → t.err = 0) := by
  by_cases hkeylen : ∃ w len, i = .keysetup w len ∧ selectVariant w len = none
  · obtain ⟨w, len, rfl, hV⟩ := id hkeylen
    exact ⟨_, exec_keysetup_of_none hV, fun _ => rfl, nofun, fun hno => absurd hkeylen hno⟩
  by_cases hnokey : (i = .encrypt ∨ i = .decrypt) ∧ s.variant = none
  · obtain ⟨hi, hV⟩ := id hnokey
    exact ⟨_, exec_blockCommand_of_none hi hV, fun h => absurd h hkeylen, fun _ _ => rfl,
      fun _ hno => absurd hnokey hno⟩
  obtain ⟨t, hexec, hcommit⟩ | h | h := exec_succeeds_or_lacks i s
  · exact ⟨t, hexec, fun h => absurd h hkeylen, fun hi hV => absurd ⟨hi, hV⟩ hnokey, fun _ _ => hcommit.err⟩
  · exact absurd h hkeylen
  · exact absurd h hnokey

/-- Settles O47, one condition after the other. -/
theorem conditionsHaveTheirPriority : Obligations.ConditionsHaveTheirPriority := by
  refine ⟨fun s a hbad => ?_, fun s v off hbusy h4 hoff => ?_, fun s v r hdec => ⟨_, complete_of_error hdec, rfl⟩,
    fun s v i hdec => ?_⟩
  · obtain ⟨herr, -⟩ := illegalAccessGetsABusError s a
    exact ⟨herr.mpr hbad, afterAccess_illegal (legal_eq_false hbad)⟩
  · rw [afterAccess_writeAccess h4]
    exact State.writeReg_of_busy (State.busy_iff_ne_none.mpr hbusy) (regAt_droppedWhileBusy h4 hoff)
  · rw [complete_of_ok hdec]
    exact exec_err i s

/-! ## The interrupt -/

theorem State.irq_eq (s : State) : s.irq = (s.cfgIe && s.done) := rfl

/-- A completion raises irq where it is enabled (R191, R220). -/
theorem Committed.irq {code : BitVec 4} {t : State} (h : Committed code s t) : t.irq = s.cfgIe := by
  rw [State.irq_eq, h.cfgIe, h.done, Bool.and_true]

theorem irq_afterAccess_write_cfg (s : State) (v : Word) :
    (s.afterAccess (writeAccess 0x04 v)).irq = (v.getLsbD 0 && s.done) := by
  rw [afterAccess_writeAccess_reg (by decide) regAt_cfg]
  rfl

/-- Settles O55, event by event. -/
theorem interruptFollowsDoneAndEnable : Obligations.InterruptFollowsDoneAndEnable := by
  refine ⟨fun s => Bool.and_eq_true_iff, fun s v hack => ?ack, fun s v hidle => ?accept, fun s v hclear => ?disable,
    fun s v hset => ?enable, fun s v => ?completion, fun _ => rfl, rfl⟩
  case ack =>
    rw [afterAccess_writeAccess_reg (by decide) regAt_status, State.writeReg, State.irq_eq]
    simp [hack]
  case accept =>
    rw [afterAccess_writeAccess_reg (by decide) regAt_cmd, State.writeReg,
      State.accept_of_idle v (State.not_busy_iff.mpr hidle), State.irq_eq, State.takeCommand_done, Bool.and_false]
  case disable => rw [irq_afterAccess_write_cfg, hclear, Bool.false_and]
  case enable => rw [irq_afterAccess_write_cfg, hset, Bool.true_and]
  case completion =>
    obtain ⟨_, t, hcomplete, hcommit⟩ := complete_commits v s
    exact ⟨t, hcomplete, hcommit.irq⟩

end Sys2Proof.Machine
end

section
/-! PROOF. What a reset leaves, what else can become of a pending command, and the one event on which a step stops
(R240, R241, I16). -/

namespace Sys2Proof.Machine

variable {s : State}

/-- On a reset event with no access presented the step answers the reset state, with the rest of the events (R240). -/
theorem step_of_reset {es : List Event} (h : s.events = .rst none :: es) :
    step s = .next (State.reset.setEvents es) :=
  step_of_cons h

/-- On an access presented during reset the machine has no step (R240, I16; log 5). -/
theorem step_of_accessDuringReset {a : Access} {es : List Event} (h : s.events = .rst (some a) :: es) :
    step s = .fault .accessDuringReset :=
  step_of_cons h

/-- The core's turn never stops: an idle core keeps its state, and every command completes (R191, R227). -/
theorem coreTurn_goes_on (s : State) : ∃ t, coreTurn s = .next t := by
  cases hpending : s.pending with
  | none => exact ⟨s, coreTurn_of_idle hpending⟩
  | some v =>
    obtain ⟨_, t, hcomplete, -⟩ := complete_commits v s
    exact ⟨t, (coreTurn_of_pending hpending).trans hcomplete⟩

/-- Only an access presented during reset keeps a step from going on: with no event left the core moves, and every other
event has its turn (R11, R63, R240). -/
theorem step_goes_on_or_accessDuringReset (s : State) :
    (∃ t, step s = .next t) ∨ ∃ a es, s.events = .rst (some a) :: es := by
  have core_goes_on (hcore : s.coreNext) : ∃ t, step s = .next t := by
    rw [step_of_coreNext hcore]
    exact coreTurn_goes_on _
  cases hevents : s.events with
  | nil => exact .inl (core_goes_on (.inl hevents))
  | cons e es =>
    cases e with
    | core => exact .inl (core_goes_on (.inr ⟨es, hevents⟩))
    | bus a => exact .inl ⟨_, step_of_bus hevents⟩
    | rst presented =>
      cases presented with
      | none => exact .inl ⟨_, step_of_reset hevents⟩
      | some a => exact .inr ⟨a, es, rfl⟩

/-- Settles O57: an idle turn has no word pending, a completion commits, a host access keeps the slot of a busy core, and
the last kind of step is a reset. -/
theorem resetAbandonsThePendingCommand : Obligations.ResetAbandonsThePendingCommand := by
  refine ⟨fun s es hreset => ⟨_, step_of_reset hreset, rfl, rfl, rfl, rfl⟩, fun s t v hpending hstep => ?_⟩
  obtain ⟨-, hidle, -⟩ | ⟨hcore, w, hword, hcomplete⟩ | ⟨a, es, -, rfl⟩ | ⟨es, hreset, -⟩ := step_cases hstep
  · exact absurd (hidle.symm.trans hpending) nofun
  · obtain rfl : w = v := Option.some.inj (hword.symm.trans hpending)
    obtain ⟨_, u, hu, hcommit⟩ := complete_commits w (s.setEvents s.events.tail)
    obtain rfl : t = u := Host.Outcome.next.inj (hcomplete.symm.trans hu)
    exact .inr (.inr ⟨hcore, hcomplete, hcommit.pending, hcommit.done⟩)
  · have hbusy : (s.setEvents es).busy = true := State.busy_iff.mpr ⟨v, hpending⟩
    exact .inr (.inl ((State.busAccess_sameOperands_of_busy hbusy a).pending.trans hpending))
  · exact .inl ⟨es, hreset⟩

/-- Settles O58: a step goes on, or an access is presented during reset and the step is the fault. -/
theorem onlyAnAccessDuringResetStops : Obligations.OnlyAnAccessDuringResetStops := by
  intro s
  have stops_if : (∃ a es, s.events = .rst (some a) :: es) → step s = .fault .accessDuringReset :=
    fun ⟨_, _, hpresented⟩ => step_of_accessDuringReset hpresented
  obtain ⟨t, hnext⟩ | hpresented := step_goes_on_or_accessDuringReset s
  · have not_stops : step s ≠ .fault .accessDuringReset := by simp [hnext]
    exact ⟨by simp [hnext], fun hstop => absurd hstop not_stops, stops_if⟩
  · exact ⟨by simp [stops_if hpresented], fun _ => hpresented, stops_if⟩

end Sys2Proof.Machine
end

section
/-! PROOF. A schedule under the complemented key, and the known-answer vectors (95_test_vectors.md sections 1.1 and
2.4.3). -/

namespace Sys2Proof.Machine

variable {n k m j : Nat} {ks : List (BitVec n)}

/-! ## The complement -/

theorem not_xor_not (x y : BitVec n) : ~~~x ^^^ ~~~y = x ^^^ y := by
  rw [← BitVec.not_xor_left, ← BitVec.not_xor_right, BitVec.not_not]

/-- A rotation moves bits and so commutes with the complement (R101). -/
theorem ror_not (v : BitVec n) (hk : k < n) : ror (~~~v) k = ~~~(ror v k) := by
  refine BitVec.eq_of_getLsbD_eq fun i hi => ?_
  have hplace : (i + k) % n < n := Nat.mod_lt _ (Nat.zero_lt_of_lt hi)
  rw [BitVec.getLsbD_not, ror_getLsbD _ hk hi, ror_getLsbD _ hk hi, BitVec.getLsbD_not]
  simp [hi, hplace]

theorem keyBack_map_not (hj : 0 < j) (hle : j ≤ ks.length) :
    keyBack (ks.map fun k => ~~~k) j = ~~~(keyBack ks j) := by
  have hplace : j - 1 < ks.length := by omega
  simp [keyBack, hplace]

/-- tmp XORs two or four key terms, so the complements cancel in pairs (R134, R135). -/
theorem recurrenceTmp_map_not (hn : 4 < n) (hm : 0 < m) (hle : m ≤ ks.length) :
    recurrenceTmp m (ks.map fun k => ~~~k) = recurrenceTmp m ks := by
  have hnewest := keyBack_map_not (ks := ks) Nat.one_pos (by omega)
  rw [recurrenceTmp, recurrenceTmp, hnewest, ror_not _ (by omega : 3 < n), ror_not _ hn]
  split
  · next h4 =>
    have hthird := keyBack_map_not (ks := ks) (j := 3) (by omega) (by omega)
    rw [hthird, ror_not _ (by omega : 1 < n), not_xor_not, BitVec.xor_assoc, not_xor_not, ← BitVec.xor_assoc]
  · exact not_xor_not _ _

/-- Of a derived key's terms only k[i-m] is complemented (R134, R135). -/
theorem deriveKey_map_not (hn : 4 < n) (hm : 0 < m) (hle : m ≤ ks.length) (b : BitVec 1) :
    deriveKey m b (ks.map fun k => ~~~k) = ~~~(deriveKey m b ks) := by
  rw [deriveKey, deriveKey, recurrenceTmp_map_not hn hm hle, keyBack_map_not hm hle, ← BitVec.not_xor_right,
    ← BitVec.not_xor_left]

theorem expandTail_map_not (hn : 4 < n) (hm : 0 < m) (hle : m ≤ ks.length) (bs : List (BitVec 1)) :
    expandTail m bs (ks.map fun k => ~~~k) = (expandTail m bs ks).map fun k => ~~~k := by
  induction bs generalizing ks with
  | nil => rfl
  | cons b bs ih =>
    rw [expandTail, expandTail, deriveKey_map_not hn hm hle, ← List.map_cons]
    exact ih (Nat.le_succ_of_le hle)

/-- Settles O18: in the recurrence all complements but that of k[i-m] cancel. -/
theorem complementedKeyComplementsTheSchedule : Obligations.ComplementedKeyComplementsTheSchedule := by
  intro V uk huk
  have hn : 4 < V.width.bits := Nat.lt_trans (by decide) (eight_lt_bits V.width)
  rw [expand_eq_expandTail, expand_eq_expandTail, expandTail_map_not hn (keyWords_pos V) huk.ge, List.map_reverse]

/-! ## The known-answer vectors -/

/-- Settles O27: the model computes each vector. -/
theorem publishedVectorsReproduce : Obligations.PublishedVectorsReproduce := by
  refine ⟨?v1, ?v2, ?v3, ?v4, ?v5⟩
  case v1 | v2 | v3 | v4 | v5 => decide +kernel

end Sys2Proof.Machine
end
